-- ==== Sys2Proof/Word.lean ====
section
/-! DEFINITION. The word types of TIMCORE: what the spec sees as bits (00_scope.md R6, R7, R9; 10_state.md R20). -/

namespace Sys2Proof

/-- One byte of the BYTE memory, or one colour channel (R9, R29). -/
abbrev Byte := BitVec 8

/-- An `RGBA8` colour, `{A, B, G, R}`: R in bits 7:0, G in 15:8, B in 23:16, A in 31:24 (R20). -/
abbrev Color := BitVec 32

/-- A command word, as the host writes it to `CMD` (R56). -/
abbrev CmdWord := BitVec 32

end Sys2Proof
end

