-- ==== Sys2Proof/Syntax.lean ====
section
/-! DEFINITION. The 21 commands of TIMCORE, one constructor per row of spec/opcode_table.json (30_encoding.md R59). -/

namespace Sys2Proof

/-- A command. `off` is the word's field `A` (bitOffset) and `cnt` its field `B` (bitCount), each an unsigned byte used as
it stands (R58); the order of the operands is the assembler's (R65). -/
inductive Instr where
  /-- `PACK8 off` (R71). -/
  | pack8 (off : Byte)
  /-- `PACK16 off` (R72). -/
  | pack16 (off : Byte)
  /-- `PACK32 off` (R73). -/
  | pack32 (off : Byte)
  /-- `PACK64 off` (R74). -/
  | pack64 (off : Byte)
  /-- `UNPK8 cnt, off` (R76). -/
  | unpk8 (cnt off : Byte)
  /-- `UNPK16 cnt, off` (R77). -/
  | unpk16 (cnt off : Byte)
  /-- `UNPK32 cnt, off` (R78). -/
  | unpk32 (cnt off : Byte)
  /-- `UNPK64 cnt, off` (R79). -/
  | unpk64 (cnt off : Byte)
  /-- `DEC16` (R85). -/
  | dec16
  /-- `ENC16` (R86). -/
  | enc16
  /-- `PXDEC` (R93). -/
  | pxdec
  /-- `PXENCT` (R100). -/
  | pxenct
  /-- `PXENCI` (R104). -/
  | pxenci
  /-- `PXRES` (R108). -/
  | pxres
  /-- `CLDEC` (R115). -/
  | cldec
  /-- `CLENC` (R119). -/
  | clenc
  /-- `CLSWZ` (R125). -/
  | clswz
  /-- `CLCMP` (R128). -/
  | clcmp
  /-- `GSDEC` (R134). -/
  | gsdec
  /-- `GSENC` (R138). -/
  | gsenc
  /-- `RST` (R145). -/
  | rst
  deriving DecidableEq, Repr

end Sys2Proof
end

