-- ==== Sys2Proof/WellFormed.lean ====
section
/-! DEFINITION. The operand limits of the bit-field commands (30_encoding.md R63, R64). -/

namespace Sys2Proof

/-- `PACKw` is legal when `0 <= A < W` (R63); its `B` is no operand. -/
def packOperandOk (W : Nat) (off : Byte) : Bool := decide (off.toNat < W)

/-- `UNPKw` is legal when `0 <= A < W` and `1 <= B <= W` (R64). -/
def unpkOperandsOk (W : Nat) (cnt off : Byte) : Bool :=
  decide (off.toNat < W) && decide (1 ≤ cnt.toNat) && decide (cnt.toNat ≤ W)

/-- The instructions that have an encoding (R60, R63, R64). -/
def Instr.wellFormed : Instr → Bool
  | .pack8 off => packOperandOk 8 off
  | .pack16 off => packOperandOk 16 off
  | .pack32 off => packOperandOk 32 off
  | .pack64 off => packOperandOk 64 off
  | .unpk8 cnt off => unpkOperandsOk 8 cnt off
  | .unpk16 cnt off => unpkOperandsOk 16 cnt off
  | .unpk32 cnt off => unpkOperandsOk 32 cnt off
  | .unpk64 cnt off => unpkOperandsOk 64 cnt off
  | .dec16 => true
  | .enc16 => true
  | .pxdec => true
  | .pxenct => true
  | .pxenci => true
  | .pxres => true
  | .cldec => true
  | .clenc => true
  | .clswz => true
  | .clcmp => true
  | .gsdec => true
  | .gsenc => true
  | .rst => true

end Sys2Proof
end

