-- ==== Sys2Proof/Decode.lean ====
section
/-! DEFINITION. Decoding a command word, total and rejecting by name (30_encoding.md R57 to R64), and the encoder (R66). -/

namespace Sys2Proof

/-- Why a word is reserved (R61). Each one raises `IllegalCommand`. -/
inductive DecodeError where
  /-- `Z` is not 0. -/
  | nonZeroZ
  /-- `OP` is none of the 21 opcodes of R59. -/
  | unassignedOpcode
  /-- An immediate the command does not use is not 0. -/
  | unusedImmediate
  /-- A bit-field command's `A` is not below `W`. -/
  | offsetRange
  /-- `UNPKw` with `B` = 0 or `B` > `W`. -/
  | countRange
  deriving DecidableEq, Repr

/-- `OP`, bits 7:0 (R57). -/
def CmdWord.op (w : CmdWord) : Byte := w.extractLsb' 0 8

/-- `A`, bits 15:8 (R57). -/
def CmdWord.a (w : CmdWord) : Byte := w.extractLsb' 8 8

/-- `B`, bits 23:16 (R57). -/
def CmdWord.b (w : CmdWord) : Byte := w.extractLsb' 16 8

/-- `Z`, bits 31:24 (R57). -/
def CmdWord.z (w : CmdWord) : Byte := w.extractLsb' 24 8

/-- The operand checks of a `PACKw` row (R60, R63). -/
def decodePack (make : Byte → Instr) (W : Nat) (a b : Byte) : Except DecodeError Instr :=
  if b ≠ 0 then .error .unusedImmediate
  else if packOperandOk W a then .ok (make a)
  else .error .offsetRange

/-- The operand checks of an `UNPKw` row (R60, R64). -/
def decodeUnpk (make : Byte → Byte → Instr) (W : Nat) (a b : Byte) : Except DecodeError Instr :=
  if W ≤ a.toNat then .error .offsetRange
  else if unpkOperandsOk W b a then .ok (make b a)
  else .error .countRange

/-- The operand check of every other row: both immediates are 0 (R60). -/
def decodePlain (i : Instr) (a b : Byte) : Except DecodeError Instr :=
  if a ≠ 0 ∨ b ≠ 0 then .error .unusedImmediate else .ok i

/-- The opcode map (R59). -/
def decodeFields (op a b : Byte) : Except DecodeError Instr :=
  match op.toNat with
  | 0x10 => decodePack .pack8 8 a b
  | 0x11 => decodePack .pack16 16 a b
  | 0x12 => decodePack .pack32 32 a b
  | 0x13 => decodePack .pack64 64 a b
  | 0x14 => decodeUnpk .unpk8 8 a b
  | 0x15 => decodeUnpk .unpk16 16 a b
  | 0x16 => decodeUnpk .unpk32 32 a b
  | 0x17 => decodeUnpk .unpk64 64 a b
  | 0x20 => decodePlain .dec16 a b
  | 0x21 => decodePlain .enc16 a b
  | 0x30 => decodePlain .pxdec a b
  | 0x31 => decodePlain .pxenct a b
  | 0x32 => decodePlain .pxenci a b
  | 0x33 => decodePlain .pxres a b
  | 0x38 => decodePlain .cldec a b
  | 0x39 => decodePlain .clenc a b
  | 0x40 => decodePlain .clswz a b
  | 0x41 => decodePlain .clcmp a b
  | 0x50 => decodePlain .gsdec a b
  | 0x51 => decodePlain .gsenc a b
  | 0xFF => decodePlain .rst a b
  | _ => .error .unassignedOpcode

/-- Decoding of a command word: `Z`, then `OP`, then the immediates (R60). The fault state's test, which comes before it,
is the machine's (`State.issue`). -/
def decode (w : CmdWord) : Except DecodeError Instr :=
  if w.z ≠ 0 then .error .nonZeroZ else decodeFields w.op w.a w.b

/-- `cmd = OP | (A << 8) | (B << 16)` with bits 31:24 zero (R66). -/
def encodeFields (op a b : Byte) : CmdWord := 0#8 ++ b ++ a ++ op

/-- The word of a well-formed instruction (R59, R66). -/
def encode : Instr → CmdWord
  | .pack8 off => encodeFields 0x10 off 0
  | .pack16 off => encodeFields 0x11 off 0
  | .pack32 off => encodeFields 0x12 off 0
  | .pack64 off => encodeFields 0x13 off 0
  | .unpk8 cnt off => encodeFields 0x14 off cnt
  | .unpk16 cnt off => encodeFields 0x15 off cnt
  | .unpk32 cnt off => encodeFields 0x16 off cnt
  | .unpk64 cnt off => encodeFields 0x17 off cnt
  | .dec16 => encodeFields 0x20 0 0
  | .enc16 => encodeFields 0x21 0 0
  | .pxdec => encodeFields 0x30 0 0
  | .pxenct => encodeFields 0x31 0 0
  | .pxenci => encodeFields 0x32 0 0
  | .pxres => encodeFields 0x33 0 0
  | .cldec => encodeFields 0x38 0 0
  | .clenc => encodeFields 0x39 0 0
  | .clswz => encodeFields 0x40 0 0
  | .clcmp => encodeFields 0x41 0 0
  | .gsdec => encodeFields 0x50 0 0
  | .gsenc => encodeFields 0x51 0 0
  | .rst => encodeFields 0xFF 0 0

/-- The instruction the decoder reads from a command whose bits are `w`, numbered as spec/opcode_table.json numbers them.
Every row has 32 bits, one command word; bits above `nbits` are 0. -/
def decodeTableWord (nbits w : Nat) : Option Instr :=
  match decode (BitVec.ofNat 32 (w % 2 ^ nbits)) with
  | .ok i => some i
  | .error _ => none

end Sys2Proof
end

