-- ==== Sys2Proof/Config.lean ====
section
/-! DEFINITION. What an implementation of TIMCORE fixes and what the spec leaves open (00_scope.md R5, R34;
93_implementation_defined.md U1 to U4, U9, U15, U16). Every open value is an opaque constant with no body: a proof can
learn nothing about it but its type. -/

namespace Sys2Proof

/-- By how much `BYTE_SIZE` exceeds 16, the least size R5 allows (log 3). -/
opaque Config.byteSizeOver : Fin (4294967279 + 1)

/-- By how much `PIX_CAP` exceeds 1, the least capacity R5 allows (log 3). -/
opaque Config.pixCapOver : Fin (1073741823 + 1)

/-- By how much `PAL_CAP` exceeds 256, the least capacity R5 allows (log 3). -/
opaque Config.palCapOver : Fin (65279 + 1)

/-- `BYTE_SIZE`, the size of the BYTE memory in bytes: 16 <= `BYTE_SIZE` < 2^32 (R5, U15). -/
def Config.byteSize : Nat := Config.byteSizeOver.val + 16

/-- `PIX_CAP`, the entries of the PIX memory: 1 <= `PIX_CAP` <= 2^30 (R5, U15). -/
def Config.pixCap : Nat := Config.pixCapOver.val + 1

/-- `PAL_CAP`, the entries of the PAL memory: 256 <= `PAL_CAP` < 2^16 (R5, U15). -/
def Config.palCap : Nat := Config.palCapOver.val + 256

/-- `ALPHA24`, the alpha of a colour decoded from the 24-bit type, fixed for a run (R5, R95, R117, U2; log 4). -/
opaque Config.alpha24 : Byte

/-- `NIB_PAD`, the high nibble of the trailing byte of an odd 4-bit write, by draw (R5, R106, U1; log 5). -/
opaque Config.nibPad : Nat → BitVec 4

/-- Unspecified contents of a BYTE cell, by draw and address (R36, R162, U4, U9, U16; log 6, 8). -/
opaque Config.freeByte : Nat → Nat → Byte

/-- Unspecified colour of a PIX entry, by draw and entry (R36, R97, R162, U3, U4, U9, U16; log 6, 7, 8). -/
opaque Config.freePixColor : Nat → Nat → Color

/-- Unspecified index of a PIX entry, by draw and entry (R36, R162, U4, U9, U16; log 6, 8). -/
opaque Config.freePixIndex : Nat → Nat → BitVec 32

/-- Unspecified contents of a PAL entry, by draw and entry (R36, U9, U16; log 6). -/
opaque Config.freePalColor : Nat → Nat → Color

end Sys2Proof
end

