-- ==== Sys2Proof/Machine/State.lean ====
section
/-! DEFINITION. The state of TIMCORE: all of 10_state.md R13, and four fields of the model's own (log 1, 9, 10). -/

namespace Sys2Proof.Machine

/-- A memory: the cells that have a value, by address. A cell that is not listed holds no specified value (R36, log 6). For
BYTE this is `List Host.Cell`. -/
abbrev Memory (α : Type) := List (Nat × α)

/-- One entry of the PIX memory: a colour, and a 32-bit two's-complement index (R27). -/
structure Pixel where
  color : Color
  index : BitVec 32
  deriving DecidableEq, Repr

/-- `GF[0..18]`, one register per GsTex field, each exactly as wide as its field (R24, R141). -/
structure GsFields where
  bp : BitVec 14
  bw : BitVec 6
  psm : BitVec 6
  wl2 : BitVec 4
  hl2 : BitVec 4
  cc : BitVec 1
  tf : BitVec 2
  cbp : BitVec 14
  cpsm : BitVec 4
  csm : BitVec 1
  csa : BitVec 5
  clc : BitVec 3
  lcm : BitVec 1
  mxl : BitVec 3
  mmag : BitVec 1
  mmin : BitVec 3
  mba : BitVec 1
  lodl : BitVec 2
  lodk : BitVec 12
  deriving DecidableEq, Repr

/-- One action of the host between commands (R31, R148, R149), or the hardware reset input (R177). -/
inductive HostAction where
  /-- A pulse of the hardware reset input (R177). -/
  | reset
  /-- A write of `v` to host register `n`; register 0 is `CMD`, so this issues a command (R14, R31). -/
  | write (n : Nat) (v : BitVec 64)
  /-- A read of host register `n` (R31). -/
  | read (n : Nat)
  /-- A write of `BYTE[a]` (R31). -/
  | writeByte (a : Nat) (v : Byte)
  /-- A read of `BYTE[a]` (R31). -/
  | readByte (a : Nat)
  /-- A write of the whole entry `PIX[i]` (R31, R46). -/
  | writePix (i : Nat) (p : Pixel)
  /-- A read of the whole entry `PIX[i]` (R31, R46). -/
  | readPix (i : Nat)
  /-- A write of `PAL[i]` (R31, R46). -/
  | writePal (i : Nat) (c : Color)
  /-- A read of `PAL[i]` (R31, R46). -/
  | readPal (i : Nat)
  deriving DecidableEq, Repr

/-- What a read returns to the host (log 10). -/
inductive ReadData where
  /-- Nothing has been read yet. -/
  | nothing
  /-- A register's value, zero-extended. -/
  | reg (v : BitVec 64)
  /-- A byte of BYTE. -/
  | byte (v : Byte)
  /-- An entry of PIX. -/
  | pix (p : Pixel)
  /-- An entry of PAL. -/
  | pal (c : Color)
  deriving DecidableEq, Repr

/-- The three address spaces (R37). -/
inductive Space where
  | byte
  | pix
  | pal
  deriving DecidableEq, Repr

/-- The state of the block (R13), and the model's own fields. -/
structure State where
  /-- `STATUS` (R15). -/
  status : BitVec 8
  /-- `CAUSE` (R16). -/
  cause : BitVec 8
  /-- `CFG` (R17). -/
  cfg : BitVec 16
  /-- `WORD` (R18). -/
  word : BitVec 64
  /-- `VAL` (R19). -/
  val : BitVec 64
  /-- `PIXW` (R21). -/
  pixw : BitVec 16
  /-- `COL` (R20). -/
  col : Color
  /-- `IMGW` (R22). -/
  imgw : BitVec 16
  /-- `IMGH` (R22). -/
  imgh : BitVec 16
  /-- `CLBYTES` (R23). -/
  clbytes : BitVec 32
  /-- `PLEN` (R26). -/
  plen : BitVec 16
  /-- `BPOS` (R30). -/
  bpos : BitVec 32
  /-- `TEX0` (R25). -/
  tex0 : BitVec 64
  /-- `TEX1` (R25). -/
  tex1 : BitVec 64
  /-- `GF[0..18]` (R24). -/
  gf : GsFields
  /-- The BYTE memory (R29). -/
  byteMem : Memory Byte
  /-- The PIX memory (R27). -/
  pixMem : Memory Pixel
  /-- The PAL memory (R28). -/
  palMem : Memory Color
  /-- MODEL'S OWN: the host's actions still to come, oldest first (log 1). -/
  inbox : List HostAction
  /-- MODEL'S OWN: what the host's last read returned (log 10). -/
  readback : ReadData
  /-- MODEL'S OWN: the number of the next fresh free value (log 9). -/
  draws : Nat
  /-- MODEL'S OWN: the draw that gave the three memories their contents at the last hardware reset (log 9). -/
  memDraw : Nat
  deriving DecidableEq, Repr

/-- Every field register 0 (R35). -/
def GsFields.zero : GsFields :=
  { bp := 0, bw := 0, psm := 0, wl2 := 0, hl2 := 0, cc := 0, tf := 0, cbp := 0, cpsm := 0, csm := 0, csa := 0,
    clc := 0, lcm := 0, mxl := 0, mmag := 0, mmin := 0, mba := 0, lodl := 0, lodk := 0 }

/-- The machine right after a hardware reset: every register 0, the memories unspecified (R35, R177). The last four fields
are the model's own choice (log 1, 9, 10). -/
def State.reset : State :=
  { status := 0, cause := 0, cfg := 0, word := 0, val := 0, pixw := 0, col := 0, imgw := 0, imgh := 0,
    clbytes := 0, plen := 0, bpos := 0, tex0 := 0, tex1 := 0, gf := GsFields.zero,
    byteMem := [], pixMem := [], palMem := [],
    inbox := [], readback := .nothing, draws := 1, memDraw := 0 }

/-- Why the model stops with a fault. The spec's own faults are no such stop: they are next states (R160). -/
inductive Fault where
  /-- Raised by a host read or write (no command) of a cell beyond the end of `space`, an address R37 says does not exist.
  Safe: the model stops where the spec says nothing (log 11). -/
  | noSuchCell (space : Space) (a : Nat)
  deriving DecidableEq, Repr

/-- Why the model refuses a step. -/
inductive Refusal where
  /-- Raised by `exec` for an instruction that has no meaning yet. Safe. No arm answers it. -/
  | notModelled (mnemonic : String)
  /-- Raised by a host access other than a read of `STATUS` while `BUSY` is 1: the host has no such move (R148, U10).
  Safe, and no run reaches it (log 12). -/
  | hostAccessWhileBusy
  /-- Raised by a host write of a value wider than the register's port, which R32 says cannot be expressed. Safe
  (log 13). -/
  | valueWiderThanPort (n : Nat)
  deriving DecidableEq, Repr

end Sys2Proof.Machine
end

