-- ==== Sys2Proof/Machine/Flags.lean ====
section
/-! DEFINITION. The two flags of `STATUS`, and the fault causes (10_state.md R15, R16; 60_exceptions.md R159). No command
of TIMCORE writes or reads a condition code (R15). -/

namespace Sys2Proof.Machine

/-- `STATUS.BUSY`, bit 0 (R15). -/
def State.busy (s : State) : Bool := s.status.getLsbD 0

/-- `STATUS.FAULT`, bit 1 (R15). -/
def State.fault (s : State) : Bool := s.status.getLsbD 1

/-- `STATUS` with `BUSY` set (R15). -/
def statusBusy (st : BitVec 8) : BitVec 8 := st ||| 0x01#8

/-- `STATUS` with `BUSY` cleared (R15). -/
def statusIdle (st : BitVec 8) : BitVec 8 := st &&& 0xFE#8

/-- `STATUS` with `FAULT` set and `BUSY` cleared (R160). -/
def statusFaulted (st : BitVec 8) : BitVec 8 := (st ||| 0x02#8) &&& 0xFE#8

/-- The causes a command can raise (R159). Cause 7 is kept for the host's own errors and never raised (R169). -/
inductive Cause where
  | invalidRegisterData
  | badColorType
  | sizeOverrun
  | wrongPath
  | illegalCommand
  | indexRange
  deriving DecidableEq, Repr

/-- The value `CAUSE` records (R159). -/
def causeCode : Cause → BitVec 8
  | .invalidRegisterData => 1
  | .badColorType => 2
  | .sizeOverrun => 3
  | .wrongPath => 4
  | .illegalCommand => 5
  | .indexRange => 6

end Sys2Proof.Machine
end

