-- ==== Sys2Proof/Machine/Memory.lean ====
section
/-! DEFINITION. The operations on a memory in its canonical form, and the two loops of the spec's pseudocode
(20_memory.md R42, R46; 00_scope.md R8). -/

namespace Sys2Proof.Machine

/-- The canonical form: addresses strictly rising. An unlisted cell holds no value, so no listed cell can equal it. -/
abbrev Memory.wf {α : Type} (m : Memory α) : Prop := m.Pairwise (fun x y => x.1 < y.1)

/-- Every listed cell lies below the capacity (R37). -/
abbrev Memory.within {α : Type} (m : Memory α) (cap : Nat) : Prop := ∀ x ∈ m, x.1 < cap

/-- The value of cell `a`, if something has written it (R36). -/
def Memory.read {α : Type} : Memory α → Nat → Option α
  | [], _ => none
  | (b, w) :: m, a => if a = b then some w else Memory.read m a

/-- Cell `a` takes the value `v`; no other cell changes. -/
def Memory.write {α : Type} : Memory α → Nat → α → Memory α
  | [], a, v => [(a, v)]
  | (b, w) :: m, a, v =>
    if a < b then (a, v) :: (b, w) :: m
    else if a = b then (a, v) :: m
    else (b, w) :: Memory.write m a v

/-- `for i in 0 .. n-1: x <- f i x`, in rising order of `i`. -/
def forUpTo {α : Type} : Nat → (Nat → α → α) → α → α
  | 0, _, x => x
  | n + 1, f, x => f n (forUpTo n f x)

/-- Whether `p i` holds for some `i` in `0 .. n-1`: what a per-element check of the pseudocode comes to. -/
def someBelow : Nat → (Nat → Bool) → Bool
  | 0, _ => false
  | n + 1, p => someBelow n p || p n

/-- `MemWrite(addr, n, v)`: `BYTE[addr+k] <- (v >> 8k) mod 256` for each `k` below `n` (R42). -/
def Memory.storeLE (m : Memory Byte) (addr n v : Nat) : Memory Byte :=
  forUpTo n (fun k m => m.write (addr + k) (BitVec.ofNat 8 (v >>> (8 * k)))) m

end Sys2Proof.Machine
end

