-- ==== Sys2Proof/Machine/Operands.lean ====
section
/-! DEFINITION. The operand forms: the fields of `CFG`, the colour types, the pixel and byte counts, the bit-field
functions and the 16-bit colour functions (00_scope.md R8, R10; 10_state.md R17, R22; 40_bitfield.md R68; 41_color16.md
R84 to R86; 42_pixel_codec.md R92). -/

namespace Sys2Proof.Machine

/-- The colour types (R10). -/
inductive ColorType where
  | none
  | color16
  | color24
  | color32
  | indexColor4
  | indexColor8
  /-- Tags 6 and 7. -/
  | reserved
  deriving DecidableEq, Repr

/-- The colour type of a tag (R10). -/
def colorTypeOf (tag : BitVec 3) : ColorType :=
  match tag.toNat with
  | 0 => .none
  | 1 => .color16
  | 2 => .color24
  | 3 => .color32
  | 4 => .indexColor4
  | 5 => .indexColor8
  | _ => .reserved

/-- `isTrue(t)` (R10). -/
def ColorType.isTrue : ColorType → Bool
  | .color16 | .color24 | .color32 => true
  | _ => false

/-- `isIndexed(t)` (R10). -/
def ColorType.isIndexed : ColorType → Bool
  | .indexColor4 | .indexColor8 => true
  | _ => false

/-- `t` in {None, 6, 7}, which every pixel command refuses (R93, R100, R104, R108). -/
def ColorType.isBad (t : ColorType) : Bool := !t.isTrue && !t.isIndexed

/-- `bpc(t)`, bytes per colour; only true-colour types have one (R10). -/
def ColorType.bpc : ColorType → Nat
  | .color16 => 2
  | .color24 => 3
  | .color32 => 4
  | _ => 0

/-- `nb(t, n)`, the bytes of `n` pixels (R92). -/
def pixelBytes : ColorType → Nat → Nat
  | .color16, n => 2 * n
  | .color24, n => 3 * n
  | .color32, n => 4 * n
  | .indexColor8, n => n
  | .indexColor4, n => (n + 1) / 2
  | _, _ => 0

/-- `CFG.ICT`, bits 2:0 (R17). -/
def State.ict (s : State) : ColorType := colorTypeOf (s.cfg.extractLsb' 0 3)

/-- `CFG.CCT`, bits 5:3 (R17). -/
def State.cct (s : State) : ColorType := colorTypeOf (s.cfg.extractLsb' 3 3)

/-- `CFG.CSM1`, bit 6 (R17). -/
def State.csm1 (s : State) : Bool := s.cfg.getLsbD 6

/-- `CFG.CCF`, bit 7 (R17). -/
def State.ccf (s : State) : Bool := s.cfg.getLsbD 7

/-- `CFG.PALP`, bit 8 (R17). -/
def State.palp (s : State) : Bool := s.cfg.getLsbD 8

/-- The bits of `CFG` that exist; 15:9 are hardwired 0 (R17). -/
def cfgMask : BitVec 16 := 0x01FF

/-- `n = IMGW * IMGH`, the exact product (R22, R99). -/
def State.pixelCount (s : State) : Nat := s.imgw.toNat * s.imgh.toNat

/-- `rgba(r, g, b, a)` (R8, R20). -/
def rgba (r g b a : Byte) : Color := a ++ b ++ g ++ r

/-- `c[7:0]` (R20). -/
def colorR (c : Color) : Byte := c.extractLsb' 0 8

/-- `c[15:8]` (R20). -/
def colorG (c : Color) : Byte := c.extractLsb' 8 8

/-- `c[23:16]` (R20). -/
def colorB (c : Color) : Byte := c.extractLsb' 16 8

/-- `c[31:24]` (R20). -/
def colorA (c : Color) : Byte := c.extractLsb' 24 8

/-- A 5-bit channel times 8; at most 248, so it fits (R85). -/
def channel8 (f : BitVec 5) : Byte := BitVec.ofNat 8 (f.toNat * 8)

/-- `decode16` (R85). -/
def decode16 (w : BitVec 16) : Color :=
  rgba (channel8 (w.extractLsb' 0 5)) (channel8 (w.extractLsb' 5 5)) (channel8 (w.extractLsb' 10 5))
    (if w.getLsbD 15 then 255 else 0)

/-- `encode16`: division truncates (R86, R89). -/
def encode16 (c : Color) : BitVec 16 :=
  BitVec.ofNat 16
    (((colorA c).toNat / 255) <<< 15 ||| ((colorB c).toNat / 8) <<< 10 ||| ((colorG c).toNat / 8) <<< 5 |||
      (colorR c).toNat / 8)

/-- `pack_W(word, value, off)` on the low `W` bits of two registers, zero-extended to 64 (R68, R71). -/
def packW (W : Nat) (word value : BitVec 64) (off : Nat) : BitVec 64 :=
  (word.setWidth W ||| value.setWidth W <<< off).setWidth 64

/-- The mask of `unpack`, `(2 << (cnt-1)) - 1` (R68, R69). -/
def unpackMask (cnt : Nat) : Nat := (2 <<< (cnt - 1)) - 1

/-- `unpack_W(word, cnt, off)` on the low `W` bits of a register, zero-extended to 64 (R68, R76). -/
def unpackW (W : Nat) (word : BitVec 64) (cnt off : Nat) : BitVec 64 :=
  BitVec.ofNat 64 (((word.setWidth W).toNat >>> off) &&& unpackMask cnt)

/-- `s(i)`: exchanges bits 3 and 4 of a palette position (R126). The engine itself is written as R125's loop; this is the
permutation claims use. -/
def swapPos (i : Nat) : Nat :=
  if 8 ≤ i % 32 ∧ i % 32 ≤ 15 then i + 8
  else if 16 ≤ i % 32 ∧ i % 32 ≤ 23 then i - 8
  else i

end Sys2Proof.Machine
end

