-- ==== Sys2Proof/Machine/Ops.lean ====
section
/-! DEFINITION. The named operations over memory and registers, fault entry, and the two ways out of the fault state
(20_memory.md R42, R44, R47; 60_exceptions.md R160, R162, R165; 46_system.md R145; 70_reset_and_hazards.md R177). -/

namespace Sys2Proof.Machine

/-- `BYTE[a]`; a cell nothing has written since the hardware reset gives its free value (R36, U9; log 6). -/
def State.byteAt (s : State) (a : Nat) : Byte := (s.byteMem.read a).getD (Config.freeByte s.memDraw a)

/-- `PIX[i]`; an unwritten entry gives its free value (R36, U9; log 6). -/
def State.pixAt (s : State) (i : Nat) : Pixel :=
  (s.pixMem.read i).getD ⟨Config.freePixColor s.memDraw i, Config.freePixIndex s.memDraw i⟩

/-- `PAL[i]` of a PAL memory `m`; an unwritten entry gives its free value of draw `d` (R36, U9; log 6). -/
def palEntry (d : Nat) (m : Memory Color) (i : Nat) : Color := (m.read i).getD (Config.freePalColor d i)

/-- `PAL[i]` (R28). -/
def State.palAt (s : State) (i : Nat) : Color := palEntry s.memDraw s.palMem i

/-- `MemRead(addr, n)`: the sum of `BYTE[addr+k] * 2^(8k)` for `k` below `n` (R42). -/
def State.memRead (s : State) (addr : Nat) : Nat → Nat
  | 0 => 0
  | n + 1 => State.memRead s addr n + (s.byteAt (addr + n)).toNat * 2 ^ (8 * n)

/-- FAULT ENTRY: `raise <Cause>` (R160). `CAUSE` takes the code and `FAULT` is set only when `FAULT` was 0 (R16); `BUSY` is
cleared; nothing else is written, nothing is saved and control goes nowhere. -/
def State.raise (s : State) (c : Cause) : State :=
  { s with
    cause := if s.fault then s.cause else causeCode c
    status := statusFaulted s.status }

/-- `RST`, the one return from the fault state a command can make: every register to its reset value, the memories kept
(R145, R165). -/
def State.clearRegisters (s : State) : State :=
  { State.reset with
    byteMem := s.byteMem
    pixMem := s.pixMem
    palMem := s.palMem
    inbox := s.inbox
    readback := s.readback
    draws := s.draws
    memDraw := s.memDraw }

/-- The hardware reset: every register to its reset value, the three memories unspecified, by a fresh draw (R177, U16;
log 6, 9). -/
def State.hardReset (s : State) : State :=
  { State.reset with
    inbox := s.inbox
    readback := s.readback
    draws := s.draws + 1
    memDraw := s.draws }

/-- `BUSY` becomes 1 when a command is issued (R15). -/
def State.begin (s : State) : State := { s with status := statusBusy s.status }

/-- `BUSY` becomes 0 when a command completes (R15). -/
def State.complete (s : State) : State := { s with status := statusIdle s.status }

/-- The cursor set to `p`, as a host write of `BPOS` does (R30). -/
def State.atPos (s : State) (p : BitVec 32) : State := { s with bpos := p }

/-- The cursor passes over `nb` bytes (R30); `BPOS + nb` fits 32 bits whenever the bounds check has passed (R48). -/
def State.posAfter (s : State) (nb : Nat) : BitVec 32 := BitVec.ofNat 32 (s.bpos.toNat + nb)

/-- `BPOS + nb > BYTE_SIZE`, compared exactly (R44, R48). -/
def State.bytesOverrun (s : State) (nb : Nat) : Bool := decide (Config.byteSize < s.bpos.toNat + nb)

/-- `n > PIX_CAP` (R44). -/
def pixOverrun (n : Nat) : Bool := decide (Config.pixCap < n)

/-- A palette count above `PAL_CAP` (R26, R44). -/
def palOverrun (c : Nat) : Bool := decide (Config.palCap < c)

/-- The colour of type `t` whose bytes start at `addr`: a little-endian word through `decode16`, or raw R,G,B with the open
alpha, or raw R,G,B,A (R94 to R96, R116 to R118). Only the true-colour types have one. -/
def State.loadColor (s : State) (t : ColorType) (addr : Nat) : Color :=
  match t with
  | .color16 => decode16 (BitVec.ofNat 16 (s.memRead addr 2))
  | .color24 =>
    rgba (BitVec.ofNat 8 (s.memRead addr 1)) (BitVec.ofNat 8 (s.memRead (addr + 1) 1))
      (BitVec.ofNat 8 (s.memRead (addr + 2) 1)) Config.alpha24
  | .color32 =>
    rgba (BitVec.ofNat 8 (s.memRead addr 1)) (BitVec.ofNat 8 (s.memRead (addr + 1) 1))
      (BitVec.ofNat 8 (s.memRead (addr + 2) 1)) (BitVec.ofNat 8 (s.memRead (addr + 3) 1))
  | _ => 0

/-- The bytes of colour `c` in type `t`, stored from `addr` up (R101 to R103, R120 to R122). -/
def storeColor (t : ColorType) (addr : Nat) (c : Color) (m : Memory Byte) : Memory Byte :=
  match t with
  | .color16 => m.storeLE addr 2 (encode16 c).toNat
  | .color24 =>
    ((m.storeLE addr 1 (colorR c).toNat).storeLE (addr + 1) 1 (colorG c).toNat).storeLE (addr + 2) 1 (colorB c).toNat
  | .color32 => m.storeLE addr 4 c.toNat
  | _ => m

/-- What an `IndexRange` fault of `PXDEC` leaves: `PIX[0..n-1]` unspecified (R162, U4; log 8). -/
def State.scramblePix (s : State) (n : Nat) : State :=
  { s with
    pixMem := forUpTo n (fun i m => m.write i ⟨Config.freePixColor s.draws i, Config.freePixIndex s.draws i⟩) s.pixMem
    draws := s.draws + 1 }

/-- What an `IndexRange` fault of `PXRES` leaves: the colours of `PIX[0..n-1]` unspecified, the indices as they were (R108,
R162, U4; log 8). -/
def State.scrambleColors (s : State) (n : Nat) : State :=
  { s with
    pixMem := forUpTo n (fun i m => m.write i ⟨Config.freePixColor s.draws i, (s.pixAt i).index⟩) s.pixMem
    draws := s.draws + 1 }

/-- What an `IndexRange` fault of `PXENCI` leaves: `BYTE[BPOS .. BPOS+nb-1]` unspecified (R104, R162, U4; log 8). -/
def State.scrambleBytes (s : State) (nb : Nat) : State :=
  { s with
    byteMem := forUpTo nb (fun k m => m.write (s.bpos.toNat + k) (Config.freeByte s.draws (s.bpos.toNat + k))) s.byteMem
    draws := s.draws + 1 }

end Sys2Proof.Machine
end

