-- ==== Sys2Proof/Machine/Bitfield.lean ====
section
/-! DEFINITION. The bit-field commands PACK8/16/32/64 and UNPK8/16/32/64 (40_bitfield.md R67 to R80). Each reads and writes
only `WORD` and `VAL` and cannot fault (R70). -/

namespace Sys2Proof.Machine

/-- `PACK8 off` (R71). -/
def execPack8 (off : Byte) (s : State) : Host.Outcome State Fault Refusal :=
  .next { s with word := packW 8 s.word s.val off.toNat }

/-- `PACK16 off` (R72). -/
def execPack16 (off : Byte) (s : State) : Host.Outcome State Fault Refusal :=
  .next { s with word := packW 16 s.word s.val off.toNat }

/-- `PACK32 off` (R73). -/
def execPack32 (off : Byte) (s : State) : Host.Outcome State Fault Refusal :=
  .next { s with word := packW 32 s.word s.val off.toNat }

/-- `PACK64 off` (R74). -/
def execPack64 (off : Byte) (s : State) : Host.Outcome State Fault Refusal :=
  .next { s with word := packW 64 s.word s.val off.toNat }

/-- `UNPK8 cnt, off` (R76). -/
def execUnpk8 (cnt off : Byte) (s : State) : Host.Outcome State Fault Refusal :=
  .next { s with val := unpackW 8 s.word cnt.toNat off.toNat }

/-- `UNPK16 cnt, off` (R77). -/
def execUnpk16 (cnt off : Byte) (s : State) : Host.Outcome State Fault Refusal :=
  .next { s with val := unpackW 16 s.word cnt.toNat off.toNat }

/-- `UNPK32 cnt, off` (R78). -/
def execUnpk32 (cnt off : Byte) (s : State) : Host.Outcome State Fault Refusal :=
  .next { s with val := unpackW 32 s.word cnt.toNat off.toNat }

/-- `UNPK64 cnt, off` (R79). -/
def execUnpk64 (cnt off : Byte) (s : State) : Host.Outcome State Fault Refusal :=
  .next { s with val := unpackW 64 s.word cnt.toNat off.toNat }

end Sys2Proof.Machine
end

