-- ==== Sys2Proof/Machine/ClutCodec.lean ====
section
/-! DEFINITION. The CLUT payload commands CLDEC and CLENC (43_clut_codec.md R110 to R123). -/

namespace Sys2Proof.Machine

/-- The state after `CLDEC` (R115): `c = CLBYTES div bpc` colours, a remainder neither read nor passed (R112). -/
def cldec (s : State) : State :=
  let t := s.cct
  let c := s.clbytes.toNat / t.bpc
  if !t.isTrue then s.raise .badColorType
  else if palOverrun c || s.bytesOverrun (c * t.bpc) then s.raise .sizeOverrun
  else
    { s with
      palMem := forUpTo c (fun i m => m.write i (s.loadColor t (s.bpos.toNat + t.bpc * i))) s.palMem
      plen := BitVec.ofNat 16 c
      bpos := s.posAfter (c * t.bpc) }

/-- `CLDEC` (R115). -/
def execCldec (s : State) : Host.Outcome State Fault Refusal := .next (cldec s)

/-- The state after `CLENC` (R119): `c = PLEN` colours. -/
def clenc (s : State) : State :=
  let t := s.cct
  let c := s.plen.toNat
  if !t.isTrue then s.raise .badColorType
  else if palOverrun c || s.bytesOverrun (c * t.bpc) then s.raise .sizeOverrun
  else
    { s with
      byteMem := forUpTo c (fun i m => storeColor t (s.bpos.toNat + t.bpc * i) (s.palAt i) m) s.byteMem
      bpos := s.posAfter (c * t.bpc) }

/-- `CLENC` (R119). -/
def execClenc (s : State) : Host.Outcome State Fault Refusal := .next (clenc s)

end Sys2Proof.Machine
end

