-- ==== Sys2Proof/Machine/ColorUnit.lean ====
section
/-! DEFINITION. The 16-bit colour commands DEC16 and ENC16 (41_color16.md R83 to R90). Neither can fault. -/

namespace Sys2Proof.Machine

/-- `DEC16`: `COL <- decode16(PIXW)` (R85). -/
def execDec16 (s : State) : Host.Outcome State Fault Refusal :=
  .next { s with col := decode16 s.pixw }

/-- `ENC16`: `PIXW <- encode16(COL)` (R86). -/
def execEnc16 (s : State) : Host.Outcome State Fault Refusal :=
  .next { s with pixw := encode16 s.col }

end Sys2Proof.Machine
end

