-- ==== Sys2Proof/Machine/Gstex.lean ====
section
/-! DEFINITION. The GsTex register-word commands GSDEC and GSENC (45_gstex.md R132 to R141). -/

namespace Sys2Proof.Machine

/-- `RSVD1`, the reserved bits of word 1; word 0 has none (R133). -/
def reservedBits1 : BitVec 64 := 0xFFFFF000FFE7FC02

/-- `GF[0..18]` as the slices of the two words, each by `unpack_64` at its low bit and width (R133, R134). -/
def gfOfWords (w0 w1 : BitVec 64) : GsFields where
  bp := (unpackW 64 w0 14 0).setWidth 14
  bw := (unpackW 64 w0 6 14).setWidth 6
  psm := (unpackW 64 w0 6 20).setWidth 6
  wl2 := (unpackW 64 w0 4 26).setWidth 4
  hl2 := (unpackW 64 w0 4 30).setWidth 4
  cc := (unpackW 64 w0 1 34).setWidth 1
  tf := (unpackW 64 w0 2 35).setWidth 2
  cbp := (unpackW 64 w0 14 37).setWidth 14
  cpsm := (unpackW 64 w0 4 51).setWidth 4
  csm := (unpackW 64 w0 1 55).setWidth 1
  csa := (unpackW 64 w0 5 56).setWidth 5
  clc := (unpackW 64 w0 3 61).setWidth 3
  lcm := (unpackW 64 w1 1 0).setWidth 1
  mxl := (unpackW 64 w1 3 2).setWidth 3
  mmag := (unpackW 64 w1 1 5).setWidth 1
  mmin := (unpackW 64 w1 3 6).setWidth 3
  mba := (unpackW 64 w1 1 9).setWidth 1
  lodl := (unpackW 64 w1 2 19).setWidth 2
  lodk := (unpackW 64 w1 12 32).setWidth 12

/-- `pack_64` of one field into a word at its low bit (R138). -/
def packField {n : Nat} (f : BitVec n) (lo : Nat) (w : BitVec 64) : BitVec 64 := packW 64 w (f.setWidth 64) lo

/-- Word 0 built from 0 (R133, R138). -/
def gsWord0 (g : GsFields) : BitVec 64 :=
  packField g.clc 61 <| packField g.csa 56 <| packField g.csm 55 <| packField g.cpsm 51 <| packField g.cbp 37 <|
  packField g.tf 35 <| packField g.cc 34 <| packField g.hl2 30 <| packField g.wl2 26 <| packField g.psm 20 <|
  packField g.bw 14 <| packField g.bp 0 0

/-- Word 1 built from 0, so its reserved bits stay 0 (R133, R138, R139). -/
def gsWord1 (g : GsFields) : BitVec 64 :=
  packField g.lodk 32 <| packField g.lodl 19 <| packField g.mba 9 <| packField g.mmin 6 <| packField g.mmag 5 <|
  packField g.mxl 2 <| packField g.lcm 0 0

/-- The state after `GSDEC` (R134). -/
def gsdec (s : State) : State :=
  if s.bytesOverrun 16 then s.raise .sizeOverrun
  else
    let w0 := BitVec.ofNat 64 (s.memRead s.bpos.toNat 8)
    let w1 := BitVec.ofNat 64 (s.memRead (s.bpos.toNat + 8) 8)
    if w1 &&& reservedBits1 ≠ 0 then s.raise .invalidRegisterData
    else
      { s with
        tex0 := w0
        tex1 := w1
        gf := gfOfWords w0 w1
        bpos := s.posAfter 16 }

/-- `GSDEC` (R134). -/
def execGsdec (s : State) : Host.Outcome State Fault Refusal := .next (gsdec s)

/-- Two 64-bit words, each little-endian, word 0 at the lower address (R138). -/
@[irreducible] def storeWords (m : Memory Byte) (addr : Nat) (w0 w1 : BitVec 64) : Memory Byte :=
  (m.storeLE addr 8 w0.toNat).storeLE (addr + 8) 8 w1.toNat

/-- The state after `GSENC` (R138). -/
def gsenc (s : State) : State :=
  if s.bytesOverrun 16 then s.raise .sizeOverrun
  else
    { s with
      tex0 := gsWord0 s.gf
      tex1 := gsWord1 s.gf
      byteMem := storeWords s.byteMem s.bpos.toNat (gsWord0 s.gf) (gsWord1 s.gf)
      bpos := s.posAfter 16 }

/-- `GSENC` (R138). -/
def execGsenc (s : State) : Host.Outcome State Fault Refusal := .next (gsenc s)

end Sys2Proof.Machine
end

