-- ==== Sys2Proof/Machine/PixelCodec.lean ====
section
/-! DEFINITION. The pixel codec commands PXDEC, PXENCT, PXENCI and PXRES (42_pixel_codec.md R91 to R108). The checks come
in the order of R92; an `IndexRange` fault leaves its whole destination region unspecified whichever pixel offends (R162),
so the per-pixel check is written before the loop it could have ended (log 8). -/

namespace Sys2Proof.Machine

/-- The palette index of pixel `i` in BYTE (R97, R98): a byte, or the low nibble for even `i` and the high for odd. Only
the indexed types have one. -/
def State.indexInBytes (s : State) (t : ColorType) (i : Nat) : Nat :=
  match t with
  | .indexColor8 => s.memRead (s.bpos.toNat + i) 1
  | .indexColor4 =>
    if i % 2 = 0 then s.memRead (s.bpos.toNat + i / 2) 1 % 16 else s.memRead (s.bpos.toNat + i / 2) 1 / 16
  | _ => 0

/-- The pixel an indexed arm writes for index `k`: its colour is looked up when a palette is present and is otherwise
unspecified (R97, R98, U3; log 7). -/
def State.indexedPixel (s : State) (i k : Nat) : Pixel :=
  { color := if s.palp then s.palAt k else Config.freePixColor s.draws i
    index := BitVec.ofNat 32 k }

/-- What the arm of `t` writes to `PIX[i]` (R94 to R98). -/
def State.pixelInBytes (s : State) (t : ColorType) (i : Nat) : Pixel :=
  if t.isIndexed then s.indexedPixel i (s.indexInBytes t i)
  else { color := s.loadColor t (s.bpos.toNat + t.bpc * i), index := -1 }

/-- Whether `PXDEC` looks its indices up (R93, R97). -/
def State.looksUp (s : State) : Bool := s.ict.isIndexed && s.palp

/-- The state after `PXDEC` (R93). -/
def pxdec (s : State) : State :=
  let t := s.ict
  let n := s.pixelCount
  if t.isBad then s.raise .badColorType
  else if pixOverrun n || s.bytesOverrun (pixelBytes t n) then s.raise .sizeOverrun
  else if s.looksUp && palOverrun s.plen.toNat then s.raise .sizeOverrun
  else if s.looksUp && someBelow n (fun i => decide (s.plen.toNat ≤ s.indexInBytes t i)) then
    (s.scramblePix n).raise .indexRange
  else
    { s with
      pixMem := forUpTo n (fun i m => m.write i (s.pixelInBytes t i)) s.pixMem
      bpos := s.posAfter (pixelBytes t n)
      draws := if t.isIndexed && !s.palp then s.draws + 1 else s.draws }

/-- `PXDEC` (R93). -/
def execPxdec (s : State) : Host.Outcome State Fault Refusal := .next (pxdec s)

/-- The state after `PXENCT` (R100 to R103). -/
def pxenct (s : State) : State :=
  let t := s.ict
  let n := s.pixelCount
  if t.isBad then s.raise .badColorType
  else if t.isIndexed then s.raise .wrongPath
  else if pixOverrun n || s.bytesOverrun (pixelBytes t n) then s.raise .sizeOverrun
  else
    { s with
      byteMem := forUpTo n (fun i m => storeColor t (s.bpos.toNat + t.bpc * i) (s.pixAt i).color m) s.byteMem
      bpos := s.posAfter (pixelBytes t n) }

/-- `PXENCT` (R100). -/
def execPxenct (s : State) : Host.Outcome State Fault Refusal := .next (pxenct s)

/-- The largest index the type's bytes can hold (R105, R106). -/
def maxIndex : ColorType → Int
  | .indexColor4 => 15
  | _ => 255

/-- Whether `PXENCI` refuses the index of pixel `i`; the index is signed (R105, R106). -/
def State.indexUnfit (s : State) (t : ColorType) (i : Nat) : Bool :=
  decide ((s.pixAt i).index.toInt < 0 ∨ maxIndex t < (s.pixAt i).index.toInt)

/-- The byte `PXENCI` writes at `BPOS + j`: an index, or two nibbles with the first pixel in the low one; past an odd last
pixel the high nibble is a fresh `NIB_PAD` (R105, R106, U1; log 5). -/
def State.indexByte (s : State) (t : ColorType) (n j : Nat) : Nat :=
  match t with
  | .indexColor4 =>
    let lo := (s.pixAt (2 * j)).index.toNat
    let hi := if 2 * j + 1 < n then (s.pixAt (2 * j + 1)).index.toNat else (Config.nibPad s.draws).toNat
    hi <<< 4 ||| lo
  | _ => (s.pixAt j).index.toNat

/-- The state after `PXENCI` (R104 to R106). -/
def pxenci (s : State) : State :=
  let t := s.ict
  let n := s.pixelCount
  if t.isBad then s.raise .badColorType
  else if t.isTrue then s.raise .wrongPath
  else if pixOverrun n || s.bytesOverrun (pixelBytes t n) then s.raise .sizeOverrun
  else if someBelow n (s.indexUnfit t) then (s.scrambleBytes (pixelBytes t n)).raise .indexRange
  else
    { s with
      byteMem := forUpTo (pixelBytes t n) (fun j m => m.storeLE (s.bpos.toNat + j) 1 (s.indexByte t n j)) s.byteMem
      bpos := s.posAfter (pixelBytes t n)
      draws := if t = .indexColor4 ∧ n % 2 = 1 then s.draws + 1 else s.draws }

/-- `PXENCI` (R104). -/
def execPxenci (s : State) : Host.Outcome State Fault Refusal := .next (pxenci s)

/-- Whether the index of pixel `i` has no palette entry (R108). -/
def State.indexUnresolved (s : State) (i : Nat) : Bool :=
  decide ((s.pixAt i).index.toInt < 0 ∨ (s.plen.toNat : Int) ≤ (s.pixAt i).index.toInt)

/-- The state after `PXRES` (R108). -/
def pxres (s : State) : State :=
  let t := s.ict
  let n := s.pixelCount
  if t.isBad then s.raise .badColorType
  else if t.isTrue then s.raise .wrongPath
  else if pixOverrun n || palOverrun s.plen.toNat then s.raise .sizeOverrun
  else if someBelow n s.indexUnresolved then (s.scrambleColors n).raise .indexRange
  else
    { s with
      pixMem := forUpTo n
        (fun i m => m.write i { s.pixAt i with color := s.palAt (s.pixAt i).index.toNat }) s.pixMem }

/-- `PXRES` (R108). -/
def execPxres (s : State) : Host.Outcome State Fault Refusal := .next (pxres s)

end Sys2Proof.Machine
end

