-- ==== Sys2Proof/Machine/Reorder.lean ====
section
/-! DEFINITION. The palette reorder engine, CLSWZ and CLCMP (44_clut_transform.md R124 to R131). -/

namespace Sys2Proof.Machine

/-- Two PAL entries exchange their values; an unwritten one carries its free value of draw `d` along (R125; log 6). -/
def swapEntries (d i j : Nat) (m : Memory Color) : Memory Color :=
  (m.write i (palEntry d m j)).write j (palEntry d m i)

/-- One run of 32: entries `base+8 .. base+15` exchange with `base+16 .. base+23`, in order (R125). -/
def swapRun (d base : Nat) (m : Memory Color) : Memory Color :=
  forUpTo 8 (fun j m => swapEntries d (base + 8 + j) (base + 16 + j) m) m

/-- The state after the swap: every complete run of the palette, a tail shorter than 32 untouched (R125, R127). -/
def swapPalette (s : State) : State :=
  if palOverrun s.plen.toNat then s.raise .sizeOverrun
  else
    { s with palMem := forUpTo (s.plen.toNat / 32) (fun r m => swapRun s.memDraw (32 * r) m) s.palMem }

/-- `CLSWZ` (R125). -/
def execClswz (s : State) : Host.Outcome State Fault Refusal := .next (swapPalette s)

/-- The applicability test (R128, R129). -/
def State.swapApplies (s : State) : Bool := s.csm1 && !(decide (s.ict = .indexColor4) && !s.ccf)

/-- `CLCMP`: the swap when the test is true, else nothing (R128). -/
def execClcmp (s : State) : Host.Outcome State Fault Refusal :=
  .next (if s.swapApplies then swapPalette s else s)

end Sys2Proof.Machine
end

