-- ==== Sys2Proof/Machine/System.lean ====
section
/-! DEFINITION. The system command RST (46_system.md R144 to R146). -/

namespace Sys2Proof.Machine

/-- `RST` (R145). -/
def execRst (s : State) : Host.Outcome State Fault Refusal := .next s.clearRegisters

end Sys2Proof.Machine
end

