-- ==== Sys2Proof/Machine/Dispatch.lean ====
section
/-! DEFINITION. The dispatch: one arm per command (30_encoding.md R59). -/

namespace Sys2Proof.Machine

def exec (i : Instr) (s : State) : Host.Outcome State Fault Refusal :=
  match i with
  | .pack8 off => Sys2Proof.Machine.execPack8 off s
  | .pack16 off => Sys2Proof.Machine.execPack16 off s
  | .pack32 off => Sys2Proof.Machine.execPack32 off s
  | .pack64 off => Sys2Proof.Machine.execPack64 off s
  | .unpk8 cnt off => Sys2Proof.Machine.execUnpk8 cnt off s
  | .unpk16 cnt off => Sys2Proof.Machine.execUnpk16 cnt off s
  | .unpk32 cnt off => Sys2Proof.Machine.execUnpk32 cnt off s
  | .unpk64 cnt off => Sys2Proof.Machine.execUnpk64 cnt off s
  | .dec16 => Sys2Proof.Machine.execDec16 s
  | .enc16 => Sys2Proof.Machine.execEnc16 s
  | .pxdec => Sys2Proof.Machine.execPxdec s
  | .pxenct => Sys2Proof.Machine.execPxenct s
  | .pxenci => Sys2Proof.Machine.execPxenci s
  | .pxres => Sys2Proof.Machine.execPxres s
  | .cldec => Sys2Proof.Machine.execCldec s
  | .clenc => Sys2Proof.Machine.execClenc s
  | .clswz => Sys2Proof.Machine.execClswz s
  | .clcmp => Sys2Proof.Machine.execClcmp s
  | .gsdec => Sys2Proof.Machine.execGsdec s
  | .gsenc => Sys2Proof.Machine.execGsenc s
  | .rst => Sys2Proof.Machine.execRst s

end Sys2Proof.Machine
end

