-- ==== Sys2Proof/Machine/HostPort.lean ====
section
/-! DEFINITION. The host's side of the block: the register map, the issue of a command, and one host action (10_state.md
R14, R17, R31 to R33; 50_host_interface.md R148, R149; 60_exceptions.md R164; 46_system.md R146). -/

namespace Sys2Proof.Machine

/-- The width of host register `n`'s write port (R31, R24, R32). `STATUS`, `CAUSE` and the numbers that do not exist have
no write port; a write to one is ignored, so no value is too wide for it (log 14). -/
def portWidth : Nat → Nat
  | 0 => 32
  | 3 => 16
  | 4 => 64
  | 5 => 64
  | 6 => 16
  | 7 => 32
  | 8 => 16
  | 9 => 16
  | 10 => 32
  | 11 => 16
  | 12 => 32
  | 13 => 64
  | 14 => 64
  | 16 => 14
  | 17 => 6
  | 18 => 6
  | 19 => 4
  | 20 => 4
  | 21 => 1
  | 22 => 2
  | 23 => 14
  | 24 => 4
  | 25 => 1
  | 26 => 5
  | 27 => 3
  | 28 => 1
  | 29 => 3
  | 30 => 1
  | 31 => 3
  | 32 => 1
  | 33 => 2
  | 34 => 12
  | _ => 64

/-- What a host read of register `n` returns (R31): `CMD` and the numbers that do not exist read 0. -/
def State.readReg (s : State) : Nat → BitVec 64
  | 1 => s.status.setWidth 64
  | 2 => s.cause.setWidth 64
  | 3 => s.cfg.setWidth 64
  | 4 => s.word
  | 5 => s.val
  | 6 => s.pixw.setWidth 64
  | 7 => s.col.setWidth 64
  | 8 => s.imgw.setWidth 64
  | 9 => s.imgh.setWidth 64
  | 10 => s.clbytes.setWidth 64
  | 11 => s.plen.setWidth 64
  | 12 => s.bpos.setWidth 64
  | 13 => s.tex0
  | 14 => s.tex1
  | 16 => s.gf.bp.setWidth 64
  | 17 => s.gf.bw.setWidth 64
  | 18 => s.gf.psm.setWidth 64
  | 19 => s.gf.wl2.setWidth 64
  | 20 => s.gf.hl2.setWidth 64
  | 21 => s.gf.cc.setWidth 64
  | 22 => s.gf.tf.setWidth 64
  | 23 => s.gf.cbp.setWidth 64
  | 24 => s.gf.cpsm.setWidth 64
  | 25 => s.gf.csm.setWidth 64
  | 26 => s.gf.csa.setWidth 64
  | 27 => s.gf.clc.setWidth 64
  | 28 => s.gf.lcm.setWidth 64
  | 29 => s.gf.mxl.setWidth 64
  | 30 => s.gf.mmag.setWidth 64
  | 31 => s.gf.mmin.setWidth 64
  | 32 => s.gf.mba.setWidth 64
  | 33 => s.gf.lodl.setWidth 64
  | 34 => s.gf.lodk.setWidth 64
  | _ => 0

/-- A host write of a register other than `CMD` (R31): bits 15:9 of `CFG` are ignored (R17); `STATUS`, `CAUSE` and the
numbers that do not exist take nothing (R15, R16, R31; log 14). -/
def State.writeReg (s : State) (n : Nat) (v : BitVec 64) : State :=
  match n with
  | 3 => { s with cfg := v.setWidth 16 &&& cfgMask }
  | 4 => { s with word := v }
  | 5 => { s with val := v }
  | 6 => { s with pixw := v.setWidth 16 }
  | 7 => { s with col := v.setWidth 32 }
  | 8 => { s with imgw := v.setWidth 16 }
  | 9 => { s with imgh := v.setWidth 16 }
  | 10 => { s with clbytes := v.setWidth 32 }
  | 11 => { s with plen := v.setWidth 16 }
  | 12 => s.atPos (v.setWidth 32)
  | 13 => { s with tex0 := v }
  | 14 => { s with tex1 := v }
  | 16 => { s with gf := { s.gf with bp := v.setWidth 14 } }
  | 17 => { s with gf := { s.gf with bw := v.setWidth 6 } }
  | 18 => { s with gf := { s.gf with psm := v.setWidth 6 } }
  | 19 => { s with gf := { s.gf with wl2 := v.setWidth 4 } }
  | 20 => { s with gf := { s.gf with hl2 := v.setWidth 4 } }
  | 21 => { s with gf := { s.gf with cc := v.setWidth 1 } }
  | 22 => { s with gf := { s.gf with tf := v.setWidth 2 } }
  | 23 => { s with gf := { s.gf with cbp := v.setWidth 14 } }
  | 24 => { s with gf := { s.gf with cpsm := v.setWidth 4 } }
  | 25 => { s with gf := { s.gf with csm := v.setWidth 1 } }
  | 26 => { s with gf := { s.gf with csa := v.setWidth 5 } }
  | 27 => { s with gf := { s.gf with clc := v.setWidth 3 } }
  | 28 => { s with gf := { s.gf with lcm := v.setWidth 1 } }
  | 29 => { s with gf := { s.gf with mxl := v.setWidth 3 } }
  | 30 => { s with gf := { s.gf with mmag := v.setWidth 1 } }
  | 31 => { s with gf := { s.gf with mmin := v.setWidth 3 } }
  | 32 => { s with gf := { s.gf with mba := v.setWidth 1 } }
  | 33 => { s with gf := { s.gf with lodl := v.setWidth 2 } }
  | 34 => { s with gf := { s.gf with lodk := v.setWidth 12 } }
  | _ => s

/-- The word of `RST`, the only one that acts in the fault state (R146, R164). -/
def rstWord : CmdWord := 0x000000FF

/-- A command has run: `BUSY` falls (R15). -/
def completed : Host.Outcome State Fault Refusal → Host.Outcome State Fault Refusal
  | .next t => .next t.complete
  | .fault r => .fault r
  | .refused r => .refused r

/-- A write of `w` to `CMD` (R14, R60). In the fault state only `RST` acts, and any other word is not even decoded (R146,
R164). Otherwise `BUSY` rises, the word is decoded, and it is carried out or raises `IllegalCommand` (R61). -/
def State.issue (s : State) (w : CmdWord) : Host.Outcome State Fault Refusal :=
  if s.fault then
    if w = rstWord then completed (exec .rst s) else .next s
  else
    match decode w with
    | .ok i => completed (exec i s.begin)
    | .error _ => completed (.next (s.begin.raise .illegalCommand))

/-- Whether the host has the move while `BUSY` is 1: a read of `STATUS`, or the reset input (R148, R177). -/
def HostAction.allowedWhileBusy : HostAction → Bool
  | .reset => true
  | .read n => decide (n = 1)
  | _ => false

/-- Whether a cell lies beyond its memory (R37). -/
def HostAction.beyond : HostAction → Option (Space × Nat)
  | .writeByte a _ => if a < Config.byteSize then none else some (.byte, a)
  | .readByte a => if a < Config.byteSize then none else some (.byte, a)
  | .writePix i _ => if i < Config.pixCap then none else some (.pix, i)
  | .readPix i => if i < Config.pixCap then none else some (.pix, i)
  | .writePal i _ => if i < Config.palCap then none else some (.pal, i)
  | .readPal i => if i < Config.palCap then none else some (.pal, i)
  | .reset => none
  | .write _ _ => none
  | .read _ => none

/-- Whether the action is a host write other than one to `CMD`, which the fault state ignores (R33). -/
def HostAction.ignoredInFault : HostAction → Bool
  | .write n _ => decide (n ≠ 0)
  | .writeByte _ _ => true
  | .writePix _ _ => true
  | .writePal _ _ => true
  | .reset => false
  | .read _ => false
  | .readByte _ => false
  | .readPix _ => false
  | .readPal _ => false

/-- The effect of an action that the host has and the block does not ignore (R14, R31, R46, R177). -/
def State.act (s : State) : HostAction → Host.Outcome State Fault Refusal
  | .reset => .next s.hardReset
  | .write n v => if n = 0 then s.issue (v.setWidth 32) else .next (s.writeReg n v)
  | .read n => .next { s with readback := .reg (s.readReg n) }
  | .writeByte a v => .next { s with byteMem := s.byteMem.write a v }
  | .readByte a => .next { s with readback := .byte (s.byteAt a) }
  | .writePix i p => .next { s with pixMem := s.pixMem.write i p }
  | .readPix i => .next { s with readback := .pix (s.pixAt i) }
  | .writePal i c => .next { s with palMem := s.palMem.write i c }
  | .readPal i => .next { s with readback := .pal (s.palAt i) }

/-- Whether a register write carries more bits than its port (R32). -/
def HostAction.tooWide : HostAction → Option Nat
  | .write n v => if v.toNat < 2 ^ portWidth n then none else some n
  | .reset => none
  | .read _ => none
  | .writeByte _ _ => none
  | .readByte _ => none
  | .writePix _ _ => none
  | .readPix _ => none
  | .writePal _ _ => none
  | .readPal _ => none

/-- One host action (R31 to R33, R148, R149; log 11, 12, 13). -/
def State.perform (s : State) (a : HostAction) : Host.Outcome State Fault Refusal :=
  if s.busy && !a.allowedWhileBusy then .refused .hostAccessWhileBusy
  else
    match a.tooWide with
    | some n => .refused (.valueWiderThanPort n)
    | none =>
      if s.fault && a.ignoredInFault then .next s
      else
        match a.beyond with
        | some (space, k) => .fault (.noSuchCell space k)
        | none => s.act a

/-- The block takes the host's next action; when there is none it waits, unchanged (R177). -/
def State.takeAction (s : State) : Host.Outcome State Fault Refusal :=
  match s.inbox with
  | [] => .next s
  | a :: rest => State.perform { s with inbox := rest } a

/-- The action by which the host issues the command word `w` (R14). -/
def issueAction (w : CmdWord) : HostAction := .write 0 (w.setWidth 64)

end Sys2Proof.Machine
end

