-- ==== Sys2Proof/Machine/Step.lean ====
section
/-! DEFINITION. One step: the host's next action, a whole command among them (00_scope.md R11). A step ends in a next
state, a fault (a host access to a cell that does not exist) or a refusal. -/

namespace Sys2Proof.Machine

/-- One step of the machine (R11). -/
def step (s : State) : Host.Outcome State Fault Refusal := s.takeAction

/-- `s` with the host about to write the command word of bits `w` to `CMD`, before anything else it was to do (R14; log 1).
-/
def State.withFetchWord (s : State) (nbits w : Nat) : State :=
  { s with inbox := issueAction (BitVec.ofNat 32 (w % 2 ^ nbits)) :: s.inbox }

end Sys2Proof.Machine
end

