-- ==== Sys2Proof/Safety.lean ====
section
/-! DEFINITION. What counts as a good state and a good end of a run, in the terms claims use (10_state.md R15 to R17;
20_memory.md R37; 50_host_interface.md R150; 60_exceptions.md R159). -/

namespace Sys2Proof.Machine

/-- The end of a run is good when nothing is pending and no fault has been reported (R150). -/
def State.goodEnd (s : State) : Prop := s.inbox = [] ∧ s.busy = false ∧ s.fault = false

/-- The three memories are in canonical form, and hold no cell beyond their capacity (R37; log 6). -/
structure State.MemoriesOk (s : State) : Prop where
  byteWf : s.byteMem.wf
  pixWf : s.pixMem.wf
  palWf : s.palMem.wf
  byteWithin : s.byteMem.within Config.byteSize
  pixWithin : s.pixMem.within Config.pixCap
  palWithin : s.palMem.within Config.palCap

/-- The invariant of the machine between commands: `BUSY` and `STATUS[7:2]` are 0 (R15), `CAUSE` is 0 without a fault and
one of the causes 1 to 6 with one (R16, R159), `CFG[15:9]` are 0 (R17), the memories are in order, and the power-on draw is
not a fresh one (log 9). -/
structure State.Inv (s : State) : Prop where
  status : s.status = 0x00#8 ∨ s.status = 0x02#8
  causeIdle : s.fault = false → s.cause = 0
  causeFaulted : s.fault = true → ∃ c, s.cause = causeCode c
  cfg : s.cfg &&& ~~~cfgMask = 0
  memories : s.MemoriesOk
  drawsFresh : s.memDraw < s.draws

/-- Every register has its reset value (R35): what `RST` and a hardware reset leave. -/
structure State.RegistersReset (s : State) : Prop where
  status : s.status = 0
  cause : s.cause = 0
  cfg : s.cfg = 0
  word : s.word = 0
  val : s.val = 0
  pixw : s.pixw = 0
  col : s.col = 0
  imgw : s.imgw = 0
  imgh : s.imgh = 0
  clbytes : s.clbytes = 0
  plen : s.plen = 0
  bpos : s.bpos = 0
  tex0 : s.tex0 = 0
  tex1 : s.tex1 = 0
  gf : s.gf = GsFields.zero

/-- `t` is `s` with the fault of code `c` reported and nothing else changed (R160, R162). -/
def State.FaultedAs (s : State) (c : Cause) (t : State) : Prop :=
  t = { s with status := statusFaulted s.status, cause := causeCode c }

/-- The colour that the bytes `b 0`, `b 1`, .. stand for in a true-colour type (R94 to R96, R116 to R118). -/
def colorOfBytes (t : ColorType) (b : Nat → Byte) : Color :=
  match t with
  | .color16 => decode16 (b 1 ++ b 0)
  | .color24 => rgba (b 0) (b 1) (b 2) Config.alpha24
  | .color32 => rgba (b 0) (b 1) (b 2) (b 3)
  | _ => 0

/-- The bytes of a colour in a true-colour type, in rising address order (R101 to R103, R120 to R122). -/
def colorBytes (t : ColorType) (c : Color) : List Byte :=
  match t with
  | .color16 => [(encode16 c).extractLsb' 0 8, (encode16 c).extractLsb' 8 8]
  | .color24 => [colorR c, colorG c, colorB c]
  | .color32 => [colorR c, colorG c, colorB c, colorA c]
  | _ => []

/-- What is left of a colour after it has been stored in a true-colour type and read back (R88, R109, R123). -/
def colorKept (t : ColorType) (c : Color) : Color :=
  match t with
  | .color16 =>
    rgba (colorR c &&& 0xF8) (colorG c &&& 0xF8) (colorB c &&& 0xF8) (if colorA c = 255 then 255 else 0)
  | .color24 => rgba (colorR c) (colorG c) (colorB c) Config.alpha24
  | _ => c

/-- The palette index of pixel `i` in the bytes from `BPOS` up: one byte, or the low nibble for even `i` and the high
nibble for odd `i` (R97, R98). -/
def State.storedIndex (s : State) (i : Nat) : Nat :=
  if s.ict = .indexColor8 then (s.byteAt (s.bpos.toNat + i)).toNat
  else if i % 2 = 0 then ((s.byteAt (s.bpos.toNat + i / 2)).extractLsb' 0 4).toNat
  else ((s.byteAt (s.bpos.toNat + i / 2)).extractLsb' 4 4).toNat

/-- The bytes the image occupies fit BYTE and its pixels fit PIX (R44, R92). -/
def State.ImageFits (s : State) : Prop :=
  s.pixelCount ≤ Config.pixCap ∧ s.bpos.toNat + pixelBytes s.ict s.pixelCount ≤ Config.byteSize

/-- The colours of a `CLDEC`: `CLBYTES div bpc` (R112). -/
def State.clutCount (s : State) : Nat := s.clbytes.toNat / s.cct.bpc

/-- `c` colours fit PAL and their bytes fit BYTE (R44, R115, R119). -/
def State.ClutFits (s : State) (c : Nat) : Prop :=
  c ≤ Config.palCap ∧ s.bpos.toNat + c * s.cct.bpc ≤ Config.byteSize

/-- The opcodes of the commands without operands (R59). -/
def plainOpcodes : List Nat :=
  [0x20, 0x21, 0x30, 0x31, 0x32, 0x33, 0x38, 0x39, 0x40, 0x41, 0x50, 0x51, 0xFF]

/-- `W = 8 << OP[1:0]` (R59). -/
def opcodeWidth (op : Byte) : Nat := 8 <<< (op.toNat % 4)

/-- The reserved encodings, as R61 lists them. -/
def ReservedWord (w : CmdWord) : Prop :=
  w.z ≠ 0 ∨
  ¬ (0x10 ≤ w.op.toNat ∧ w.op.toNat ≤ 0x17 ∨ w.op.toNat ∈ plainOpcodes) ∨
  (w.op.toNat ∈ plainOpcodes ∧ (w.a ≠ 0 ∨ w.b ≠ 0)) ∨
  (0x10 ≤ w.op.toNat ∧ w.op.toNat ≤ 0x13 ∧ (w.b ≠ 0 ∨ opcodeWidth w.op ≤ w.a.toNat)) ∨
  (0x14 ≤ w.op.toNat ∧ w.op.toNat ≤ 0x17 ∧
    (opcodeWidth w.op ≤ w.a.toNat ∨ w.b.toNat = 0 ∨ opcodeWidth w.op < w.b.toNat))

/-- The causes R159 lists for each command once it is decoded; the commands of R161 have none. -/
def causesOf : Instr → List Cause
  | .pack8 _ => []
  | .pack16 _ => []
  | .pack32 _ => []
  | .pack64 _ => []
  | .unpk8 _ _ => []
  | .unpk16 _ _ => []
  | .unpk32 _ _ => []
  | .unpk64 _ _ => []
  | .dec16 => []
  | .enc16 => []
  | .pxdec => [.badColorType, .sizeOverrun, .indexRange]
  | .pxenct => [.badColorType, .wrongPath, .sizeOverrun]
  | .pxenci => [.badColorType, .wrongPath, .sizeOverrun, .indexRange]
  | .pxres => [.badColorType, .wrongPath, .sizeOverrun, .indexRange]
  | .cldec => [.badColorType, .sizeOverrun]
  | .clenc => [.badColorType, .sizeOverrun]
  | .clswz => [.sizeOverrun]
  | .clcmp => [.sizeOverrun]
  | .gsdec => [.sizeOverrun, .invalidRegisterData]
  | .gsenc => [.sizeOverrun]
  | .rst => []

/-- The registers the host can write, other than `CMD` (R31). -/
def hostWritable (n : Nat) : Prop := 3 ≤ n ∧ n ≤ 14 ∨ 16 ≤ n ∧ n ≤ 34

/-- What the host reads from each register number, zero-extended to 64 bits: R31's table, and R24's for `GF[0..18]`. -/
def State.registerMap (s : State) : List (Nat × BitVec 64) :=
  [(1, s.status.setWidth 64), (2, s.cause.setWidth 64), (3, s.cfg.setWidth 64), (4, s.word), (5, s.val),
   (6, s.pixw.setWidth 64), (7, s.col.setWidth 64), (8, s.imgw.setWidth 64), (9, s.imgh.setWidth 64),
   (10, s.clbytes.setWidth 64), (11, s.plen.setWidth 64), (12, s.bpos.setWidth 64), (13, s.tex0), (14, s.tex1),
   (16, s.gf.bp.setWidth 64), (17, s.gf.bw.setWidth 64), (18, s.gf.psm.setWidth 64), (19, s.gf.wl2.setWidth 64),
   (20, s.gf.hl2.setWidth 64), (21, s.gf.cc.setWidth 64), (22, s.gf.tf.setWidth 64), (23, s.gf.cbp.setWidth 64),
   (24, s.gf.cpsm.setWidth 64), (25, s.gf.csm.setWidth 64), (26, s.gf.csa.setWidth 64), (27, s.gf.clc.setWidth 64),
   (28, s.gf.lcm.setWidth 64), (29, s.gf.mxl.setWidth 64), (30, s.gf.mmag.setWidth 64), (31, s.gf.mmin.setWidth 64),
   (32, s.gf.mba.setWidth 64), (33, s.gf.lodl.setWidth 64), (34, s.gf.lodk.setWidth 64)]

/-- A host write that the fault state ignores (R33): a register other than `CMD`, or a memory cell. -/
def isPlainHostWrite (a : HostAction) : Prop :=
  (∃ n v, a = .write n v ∧ n ≠ 0 ∧ v.toNat < 2 ^ portWidth n) ∨ (∃ k v, a = .writeByte k v) ∨
  (∃ k v, a = .writePix k v) ∨ (∃ k v, a = .writePal k v)

end Sys2Proof.Machine
end

