-- ==== Sys2Proof/Certificates/Slice0/Obligations.lean ====
section
/-! DEFINITION. What is claimed of TIMCORE, for the provers. Each docstring names the rule of spec/ it formalises. A state
`s` ranges over all states, reachable or not, unless a hypothesis says more. -/

open Sys2Proof Sys2Proof.Machine

/-! Encoding (30_encoding.md). -/

/-- Decoding the word of a well-formed instruction gives the instruction back, with every operand (R60, R66). -/
def Obligations.DecodeOfEncode : Prop :=
  ∀ i : Instr, i.wellFormed = true → decode (encode i) = .ok i

/-- A word that decodes is the one word of its instruction, and that instruction is well-formed (R60, R66). -/
def Obligations.EncodeOfDecode : Prop :=
  ∀ (w : CmdWord) (i : Instr), decode w = .ok i → i.wellFormed = true ∧ encode i = w

/-- R66: `cmd = OP | (A << 8) | (B << 16)` with bits 31:24 zero, for all 21 opcodes of R59, and R66's examples. -/
def Obligations.EncodingFormula : Prop :=
  let word (op a b : Nat) : CmdWord := BitVec.ofNat 32 (op ||| a <<< 8 ||| b <<< 16)
  (∀ off cnt : Byte,
    encode (.pack8 off) = word 0x10 off.toNat 0 ∧ encode (.pack16 off) = word 0x11 off.toNat 0 ∧
    encode (.pack32 off) = word 0x12 off.toNat 0 ∧ encode (.pack64 off) = word 0x13 off.toNat 0 ∧
    encode (.unpk8 cnt off) = word 0x14 off.toNat cnt.toNat ∧ encode (.unpk16 cnt off) = word 0x15 off.toNat cnt.toNat ∧
    encode (.unpk32 cnt off) = word 0x16 off.toNat cnt.toNat ∧ encode (.unpk64 cnt off) = word 0x17 off.toNat cnt.toNat) ∧
  (encode .dec16 = word 0x20 0 0 ∧ encode .enc16 = word 0x21 0 0 ∧ encode .pxdec = word 0x30 0 0 ∧
    encode .pxenct = word 0x31 0 0 ∧ encode .pxenci = word 0x32 0 0 ∧ encode .pxres = word 0x33 0 0 ∧
    encode .cldec = word 0x38 0 0 ∧ encode .clenc = word 0x39 0 0 ∧ encode .clswz = word 0x40 0 0 ∧
    encode .clcmp = word 0x41 0 0 ∧ encode .gsdec = word 0x50 0 0 ∧ encode .gsenc = word 0x51 0 0 ∧
    encode .rst = word 0xFF 0 0) ∧
  (encode (.pack64 37) = 0x00002513 ∧ encode (.unpk64 14 37) = 0x000E2517 ∧ encode (.unpk8 3 2) = 0x00030214)

/-- R61, R63, R64: the words the decoder refuses are exactly the reserved encodings. -/
def Obligations.RefusedWordsAreTheReservedOnes : Prop :=
  ∀ w : CmdWord, (∀ i, decode w ≠ .ok i) ↔ ReservedWord w

/-- Words written out from the spec's encodings (R57, R59, R65) decode to what they stand for. -/
def Obligations.SampleWordsDecode : Prop :=
  decode 0x00000410 = .ok (.pack8 4) ∧ decode 0x00001D12 = .ok (.pack32 29) ∧
  decode 0x00083C17 = .ok (.unpk64 8 60) ∧ decode 0x00050515 = .ok (.unpk16 5 5) ∧
  decode 0x00000020 = .ok .dec16 ∧ decode 0x00000033 = .ok .pxres ∧ decode 0x00000039 = .ok .clenc ∧
  decode 0x00000041 = .ok .clcmp ∧ decode 0x00000051 = .ok .gsenc ∧ decode 0x000000FF = .ok .rst

/-! The step (10_state.md R14, R31 to R33; 60_exceptions.md; 46_system.md). -/

/-- A STEP RUNS THE DECODED COMMAND (R14, R60): when the host's next action issues a word that decodes to `i`, the step is
`exec i` on the state with that action taken and `BUSY` raised, after which `BUSY` falls. -/
def Obligations.StepRunsTheDecodedCommand : Prop :=
  ∀ (s : State) (w : CmdWord) (i : Instr) (rest : List HostAction),
    s.inbox = .write 0 (w.setWidth 64) :: rest → s.busy = false → s.fault = false → decode w = .ok i →
    step s = completed (exec i ({ s with inbox := rest } : State).begin)

/-- R61: a reserved word raises `IllegalCommand`, cause 5, and changes no other state (the action is taken). -/
def Obligations.ReservedWordRaisesIllegalCommand : Prop :=
  ∀ (s : State) (w : CmdWord) (rest : List HostAction),
    s.Inv → s.fault = false → s.inbox = .write 0 (w.setWidth 64) :: rest → ReservedWord w →
    step s = .next { s with status := 0x02, cause := 5, inbox := rest }

/-- R164: in the fault state a word other than 0x000000FF does nothing at all, and host writes are ignored. -/
def Obligations.FaultStateIgnoresCommandsAndWrites : Prop :=
  ∀ (s : State) (a : HostAction) (rest : List HostAction),
    s.busy = false → s.fault = true → s.inbox = a :: rest →
    ((∃ w : CmdWord, w ≠ 0x000000FF ∧ a = .write 0 (w.setWidth 64)) ∨ isPlainHostWrite a) →
    step s = .next { s with inbox := rest }

/-- R31, R33: the host may read every register and every memory cell, in the fault state too, and the read gives the
register or the cell and changes nothing else. Each number reads the register that R31's table (and R24's, for `GF[0..18]`)
gives it, zero-extended; `CMD`, number 15 and the numbers from 35 up read 0. -/
def Obligations.HostReadsAreServed : Prop :=
  ∀ (s : State) (rest : List HostAction), s.busy = false →
    (∀ n, s.inbox = .read n :: rest →
      step s = .next { s with inbox := rest, readback := .reg (s.readReg n) } ∧
        (n = 0 ∨ n = 15 ∨ 35 ≤ n → s.readReg n = 0) ∧
        ∀ v, (n, v) ∈ s.registerMap → s.readReg n = v) ∧
    (∀ a, s.inbox = .readByte a :: rest → a < Config.byteSize →
      step s = .next { s with inbox := rest, readback := .byte (s.byteAt a) }) ∧
    (∀ i, s.inbox = .readPix i :: rest → i < Config.pixCap →
      step s = .next { s with inbox := rest, readback := .pix (s.pixAt i) }) ∧
    (∀ i, s.inbox = .readPal i :: rest → i < Config.palCap →
      step s = .next { s with inbox := rest, readback := .pal (s.palAt i) })

/-- R145: `RST` sets every register to its reset value and leaves BYTE, PIX and PAL unchanged; the host's side and the
model's counters are as they were. -/
def Obligations.RstResetsRegistersAndKeepsMemories : Prop :=
  ∀ s : State, ∃ t, exec .rst s = .next t ∧ t.RegistersReset ∧
    t = { t with byteMem := s.byteMem, pixMem := s.pixMem, palMem := s.palMem, inbox := s.inbox,
                 readback := s.readback, draws := s.draws, memDraw := s.memDraw }

/-- R146: `RST` is accepted in the fault state as well as outside it, by the exact word 0x000000FF. -/
def Obligations.RstWordActsInEveryState : Prop :=
  ∀ (s : State) (rest : List HostAction), s.busy = false → s.inbox = .write 0 0x000000FF :: rest →
    ∃ t, step s = .next t ∧ t.RegistersReset ∧
      t = { t with byteMem := s.byteMem, pixMem := s.pixMem, palMem := s.palMem, inbox := rest,
                   readback := s.readback, draws := s.draws, memDraw := s.memDraw }

/-- R165: the only ways out of the fault state are a hardware reset and the `RST` command. -/
def Obligations.OnlyResetLeavesTheFaultState : Prop :=
  ∀ s t : State, s.fault = true → step s = .next t → t.fault = false →
    ∃ rest, s.inbox = .reset :: rest ∨ s.inbox = .write 0 0x000000FF :: rest

/-- R16: `CAUSE` is written only when `FAULT` is 0 and a fault is raised, or cleared by a reset or `RST`. -/
def Obligations.CauseKeepsTheFirstFault : Prop :=
  ∀ s t : State, step s = .next t → t.cause ≠ s.cause →
    (s.fault = false ∧ t.fault = true) ∨
    (t.cause = 0 ∧ ∃ rest, s.inbox = .reset :: rest ∨ s.inbox = .write 0 0x000000FF :: rest)

/-- With no host action to come the block waits, unchanged (R177; the list of actions is the model's, log 1). -/
def Obligations.BlockWaitsForTheHost : Prop := ∀ s : State, s.inbox = [] → step s = .next s

/-- R177: a hardware reset gives every register its reset value, in every state; the memories become unspecified, that is,
nothing is listed and an unlisted cell gives the free value of a draw not used before (log 6, 9). -/
def Obligations.HardwareResetEffect : Prop :=
  ∀ (s : State) (rest : List HostAction), s.inbox = .reset :: rest →
    ∃ t, step s = .next t ∧ t.RegistersReset ∧ t.byteMem = [] ∧ t.pixMem = [] ∧ t.palMem = [] ∧
      t.memDraw = s.draws ∧ t.draws = s.draws + 1 ∧ t.inbox = rest ∧ t.readback = s.readback

/-- R35: the values after reset. -/
def Obligations.ResetValues : Prop :=
  State.reset.RegistersReset ∧ State.reset.byteMem = [] ∧ State.reset.pixMem = [] ∧ State.reset.palMem = []

/-- R31, R32, R17: a host write of a register the host can write gives that register the value (`CFG` its nine bits) and
changes no other register and no memory; a write to a read-only or absent number changes nothing. -/
def Obligations.HostWritesOneRegister : Prop :=
  ∀ (s : State) (n : Nat) (v : BitVec 64) (rest : List HostAction),
    s.busy = false → s.fault = false → n ≠ 0 → v.toNat < 2 ^ portWidth n → s.inbox = .write n v :: rest →
    ∃ t, step s = .next t ∧
      (hostWritable n → t.readReg n = if n = 3 then v &&& 0x1FF else v) ∧
      (¬ hostWritable n → t = { s with inbox := rest }) ∧
      (∀ k, k ≠ n → t.readReg k = s.readReg k) ∧
      t.byteMem = s.byteMem ∧ t.pixMem = s.pixMem ∧ t.palMem = s.palMem ∧ t.inbox = rest ∧ t.readback = s.readback ∧
      t.draws = s.draws ∧ t.memDraw = s.memDraw

/-- R31, R45, R46: a host write of a memory cell changes that cell alone. -/
def Obligations.HostWritesOneCell : Prop :=
  ∀ (s : State) (rest : List HostAction), s.busy = false → s.fault = false →
    (∀ a v, s.inbox = .writeByte a v :: rest → a < Config.byteSize →
      ∃ t, step s = .next t ∧ t = { s with inbox := rest, byteMem := t.byteMem } ∧
        ∀ k, t.byteAt k = if k = a then v else s.byteAt k) ∧
    (∀ i p, s.inbox = .writePix i p :: rest → i < Config.pixCap →
      ∃ t, step s = .next t ∧ t = { s with inbox := rest, pixMem := t.pixMem } ∧
        ∀ k, t.pixAt k = if k = i then p else s.pixAt k) ∧
    (∀ i c, s.inbox = .writePal i c :: rest → i < Config.palCap →
      ∃ t, step s = .next t ∧ t = { s with inbox := rest, palMem := t.palMem } ∧
        ∀ k, t.palAt k = if k = i then c else s.palAt k)

/-- The model's own stops, none of which a command can cause: a host read of a cell beyond the end of BYTE, PIX or PAL, in
the fault state too, and a host write of one when no fault stands (log 11); a value wider than its port (log 13); any host
action but a read of `STATUS` and the reset input while `BUSY` is 1 (log 12). -/
def Obligations.HostAccessStops : Prop :=
  ∀ (s : State) (rest : List HostAction),
    (∀ k, s.busy = false →
      (Config.byteSize ≤ k → s.inbox = .readByte k :: rest → step s = .fault (.noSuchCell .byte k)) ∧
      (Config.pixCap ≤ k → s.inbox = .readPix k :: rest → step s = .fault (.noSuchCell .pix k)) ∧
      (Config.palCap ≤ k → s.inbox = .readPal k :: rest → step s = .fault (.noSuchCell .pal k))) ∧
    (∀ k, s.busy = false → s.fault = false →
      (∀ v, Config.byteSize ≤ k → s.inbox = .writeByte k v :: rest → step s = .fault (.noSuchCell .byte k)) ∧
      (∀ p, Config.pixCap ≤ k → s.inbox = .writePix k p :: rest → step s = .fault (.noSuchCell .pix k)) ∧
      (∀ c, Config.palCap ≤ k → s.inbox = .writePal k c :: rest → step s = .fault (.noSuchCell .pal k))) ∧
    (∀ n v, s.busy = false → s.inbox = .write n v :: rest → 2 ^ portWidth n ≤ v.toNat →
      step s = .refused (.valueWiderThanPort n)) ∧
    (∀ a, s.busy = true → a ≠ .reset → a ≠ .read 1 → s.inbox = a :: rest →
      step s = .refused .hostAccessWhileBusy)

/-! Invariants and whole-machine rules. -/

/-- The invariant holds right after reset. -/
def Obligations.ResetMeetsTheInvariant : Prop := State.reset.Inv

/-- Every step keeps the invariant: `STATUS` and `CAUSE` stay legal, the hardwired bits of `CFG` stay 0, and the three
memories stay canonical and inside their capacities (R15, R16, R17, R37, R159). -/
def Obligations.StepKeepsTheInvariant : Prop :=
  ∀ s t : State, s.Inv → step s = .next t → t.Inv

/-- R15: between steps `BUSY` is never seen as 1, so the host is never refused for it, in a state that meets the
invariant. -/
def Obligations.HostIsNeverRefusedAsBusy : Prop :=
  ∀ s : State, s.Inv → step s ≠ .refused .hostAccessWhileBusy

/-- R187: every command ends; in the model each answers a next state, in every state. -/
def Obligations.EveryCommandEnds : Prop := ∀ (i : Instr) (s : State), ∃ t, exec i s = .next t

/-- R159, R161: a command faults only with a cause listed for it; `PACKw`, `UNPKw`, `DEC16`, `ENC16` and `RST` never
fault, nor does `CLCMP` when its test is false. -/
def Obligations.CommandsFaultOnlyAsListed : Prop :=
  ∀ (i : Instr) (s t : State), s.fault = false → exec i s = .next t → t.fault = true →
    (∃ c ∈ causesOf i, t.cause = causeCode c) ∧ (i = .clcmp → s.swapApplies = true)

/-- R162: a fault other than `IndexRange` changes `STATUS` and `CAUSE` alone; `IndexRange` comes only from `PXDEC`,
`PXRES` and `PXENCI` and leaves `BPOS`, every other register and every cell outside the destination region unchanged. What
the region then holds is not constrained. -/
def Obligations.FaultingCommandLeavesTheRest : Prop :=
  ∀ (i : Instr) (s t : State), s.fault = false → exec i s = .next t → t.fault = true →
    t.status = statusFaulted s.status ∧
    (t.cause ≠ 6 → t = { s with status := t.status, cause := t.cause }) ∧
    (t.cause = 6 →
      (i = .pxdec ∧ t = { s with status := t.status, cause := t.cause, pixMem := t.pixMem, draws := t.draws } ∧
        ∀ j, s.pixelCount ≤ j → t.pixAt j = s.pixAt j) ∨
      (i = .pxres ∧ t = { s with status := t.status, cause := t.cause, pixMem := t.pixMem, draws := t.draws } ∧
        (∀ j, s.pixelCount ≤ j → t.pixAt j = s.pixAt j) ∧ ∀ j, (t.pixAt j).index = (s.pixAt j).index) ∨
      (i = .pxenci ∧ t = { s with status := t.status, cause := t.cause, byteMem := t.byteMem, draws := t.draws } ∧
        ∀ a, a < s.bpos.toNat ∨ s.bpos.toNat + pixelBytes s.ict s.pixelCount ≤ a → t.byteAt a = s.byteAt a))

/-- R31's column "written by commands", R17, R22 to R24: no command but `RST` writes `CFG`, `IMGW`, `IMGH` or `CLBYTES`, and
every other register and memory is changed only by the commands listed for it; `STATUS` and `CAUSE` are changed only by a
fault (R15, R16; `BUSY` rises and falls around `exec`); no command touches the host's side. -/
def Obligations.OnlyListedCommandsWriteEachRegister : Prop :=
  ∀ (i : Instr) (s t : State), i ≠ .rst → exec i s = .next t →
    (t.cfg = s.cfg ∧ t.imgw = s.imgw ∧ t.imgh = s.imgh ∧ t.clbytes = s.clbytes) ∧
    (s.fault = false → t.status ≠ s.status ∨ t.cause ≠ s.cause → t.fault = true) ∧
    (t.word ≠ s.word → ∃ off, i = .pack8 off ∨ i = .pack16 off ∨ i = .pack32 off ∨ i = .pack64 off) ∧
    (t.val ≠ s.val → ∃ cnt off, i = .unpk8 cnt off ∨ i = .unpk16 cnt off ∨ i = .unpk32 cnt off ∨ i = .unpk64 cnt off) ∧
    (t.pixw ≠ s.pixw → i = .enc16) ∧ (t.col ≠ s.col → i = .dec16) ∧ (t.plen ≠ s.plen → i = .cldec) ∧
    (t.bpos ≠ s.bpos → i ∈ [.pxdec, .pxenct, .pxenci, .cldec, .clenc, .gsdec, .gsenc]) ∧
    (t.tex0 ≠ s.tex0 ∨ t.tex1 ≠ s.tex1 → i ∈ [.gsdec, .gsenc]) ∧ (t.gf ≠ s.gf → i = .gsdec) ∧
    (t.byteMem ≠ s.byteMem → i ∈ [.pxenct, .pxenci, .clenc, .gsenc]) ∧
    (t.pixMem ≠ s.pixMem → i ∈ [.pxdec, .pxres]) ∧ (t.palMem ≠ s.palMem → i ∈ [.cldec, .clswz, .clcmp]) ∧
    t.inbox = s.inbox ∧ t.readback = s.readback ∧ t.memDraw = s.memDraw

/-- R160: `raise` with `FAULT` = 0 records the cause's code, sets `FAULT`, clears `BUSY` and writes nothing else: nothing is
saved and control goes nowhere. The codes are those of R159. -/
def Obligations.FaultEntry : Prop :=
  (∀ (s : State) (c : Cause), s.fault = false →
    (s.raise c).cause = causeCode c ∧ (s.raise c).fault = true ∧ (s.raise c).busy = false ∧
    s.raise c = { s with status := (s.raise c).status, cause := (s.raise c).cause } ∧
    ∀ k, 2 ≤ k → (s.raise c).status.getLsbD k = s.status.getLsbD k) ∧
  causeCode .invalidRegisterData = 1 ∧ causeCode .badColorType = 2 ∧ causeCode .sizeOverrun = 3 ∧
  causeCode .wrongPath = 4 ∧ causeCode .illegalCommand = 5 ∧ causeCode .indexRange = 6

/-- R178: with the reset values, a codec command issued with no set-up faults with `BadColorType`. -/
def Obligations.CodecCommandsFaultRightAfterReset : Prop :=
  ∀ w ∈ [0x30, 0x31, 0x32, 0x33, 0x38, 0x39],
    step (State.reset.withFetchWord 32 w) = .next { State.reset with status := 0x02, cause := 2 }

/-! Bit-field commands (40_bitfield.md). -/

/-- R71 to R74: `PACKw` writes to `WORD` the OR of its low `W` bits and of `VAL`'s low `W` bits shifted by `off`, cut to
`W` bits and zero-extended; nothing else changes. -/
def Obligations.PackResult : Prop :=
  ∀ (W : Nat) (i : Byte → Instr), (W, i) ∈ [(8, Instr.pack8), (16, Instr.pack16), (32, Instr.pack32), (64, Instr.pack64)] →
    ∀ (off : Byte) (s : State), off.toNat < W →
      ∃ r : BitVec 64, exec (i off) s = .next { s with word := r } ∧
        r.toNat = ((s.word.toNat % 2 ^ W) ||| (s.val.toNat % 2 ^ W) <<< off.toNat) % 2 ^ W

/-- R76 to R79: `UNPKw` writes to `VAL` the `cnt` bits of `WORD`'s low `W` bits from `off` up, zero-extended; nothing
else changes. -/
def Obligations.UnpackResult : Prop :=
  ∀ (W : Nat) (i : Byte → Byte → Instr),
    (W, i) ∈ [(8, Instr.unpk8), (16, Instr.unpk16), (32, Instr.unpk32), (64, Instr.unpk64)] →
    ∀ (cnt off : Byte) (s : State), off.toNat < W → 1 ≤ cnt.toNat → cnt.toNat ≤ W →
      ∃ r : BitVec 64, exec (i cnt off) s = .next { s with val := r } ∧
        r.toNat = (s.word.toNat % 2 ^ W) >>> off.toNat % 2 ^ cnt.toNat

/-- R75, R68, bit by bit: `PACKw` sets bit `j` of `WORD` when it was set below `W`, or when bit `j - off` of `VAL` is set
and `j` is from `off` up to `W - 1`; bits past the word are lost and bits already set stay. -/
def Obligations.PackBitByBit : Prop :=
  ∀ (W : Nat) (i : Byte → Instr), (W, i) ∈ [(8, Instr.pack8), (16, Instr.pack16), (32, Instr.pack32), (64, Instr.pack64)] →
    ∀ (off : Byte) (s : State), off.toNat < W →
      ∃ t, exec (i off) s = .next t ∧ ∀ j, t.word.getLsbD j =
        (decide (j < W) && (s.word.getLsbD j || (decide (off.toNat ≤ j) && s.val.getLsbD (j - off.toNat))))

/-- R80, bit by bit: `UNPKw` gives the `cnt` bits from `off` up, with 0 for the bits above the word. -/
def Obligations.UnpackBitByBit : Prop :=
  ∀ (W : Nat) (i : Byte → Byte → Instr),
    (W, i) ∈ [(8, Instr.unpk8), (16, Instr.unpk16), (32, Instr.unpk32), (64, Instr.unpk64)] →
    ∀ (cnt off : Byte) (s : State), off.toNat < W → 1 ≤ cnt.toNat → cnt.toNat ≤ W →
      ∃ t, exec (i cnt off) s = .next t ∧ ∀ j, t.val.getLsbD j =
        (decide (j < cnt.toNat) && decide (off.toNat + j < W) && s.word.getLsbD (off.toNat + j))

/-- R81: with `WORD` = 0 and `VAL` = v below 2^cnt, and `off + cnt <= W`, `PACKw off` and then `UNPKw cnt, off` leave
`VAL` = v. -/
def Obligations.PackThenUnpackRestores : Prop :=
  ∀ (W : Nat) (p : Byte → Instr) (u : Byte → Byte → Instr),
    (W, p, u) ∈ [(8, Instr.pack8, Instr.unpk8), (16, Instr.pack16, Instr.unpk16), (32, Instr.pack32, Instr.unpk32),
      (64, Instr.pack64, Instr.unpk64)] →
    ∀ (cnt off : Byte) (s : State), s.word = 0 → 1 ≤ cnt.toNat → off.toNat + cnt.toNat ≤ W →
      s.val.toNat < 2 ^ cnt.toNat →
      ∃ t t', exec (p off) s = .next t ∧ exec (u cnt off) t = .next t' ∧ t'.val = s.val

/-! Colour commands (41_color16.md). -/

/-- R85: `DEC16` writes `COL` channel by channel, each 5-bit field times 8 and alpha 255 or 0 by bit 15; nothing else
changes. -/
def Obligations.Dec16Result : Prop :=
  ∀ s : State, ∃ c : Color, exec .dec16 s = .next { s with col := c } ∧
    (colorR c).toNat = (s.pixw.extractLsb' 0 5).toNat * 8 ∧ (colorG c).toNat = (s.pixw.extractLsb' 5 5).toNat * 8 ∧
    (colorB c).toNat = (s.pixw.extractLsb' 10 5).toNat * 8 ∧
    (colorA c).toNat = if s.pixw.getLsbD 15 then 255 else 0

/-- R86: `ENC16` writes `PIXW` field by field, each channel's bits 7:3 and the alpha flag 1 exactly for alpha 255; nothing
else changes. -/
def Obligations.Enc16Result : Prop :=
  ∀ s : State, ∃ w : BitVec 16, exec .enc16 s = .next { s with pixw := w } ∧
    (w.extractLsb' 0 5).toNat = (colorR s.col).toNat / 8 ∧ (w.extractLsb' 5 5).toNat = (colorG s.col).toNat / 8 ∧
    (w.extractLsb' 10 5).toNat = (colorB s.col).toNat / 8 ∧ (w.getLsbD 15 = true ↔ (colorA s.col).toNat = 255)

/-- R87: encoding a decoded word gives the word back, for every 16-bit word. -/
def Obligations.EncodeOfDecodedColorIsIdentity : Prop :=
  ∀ s : State, ∃ t u, exec .dec16 s = .next t ∧ exec .enc16 t = .next u ∧ u.pixw = s.pixw

/-- R88: decoding an encoded colour drops the low three bits of each channel and keeps alpha only if it is 255. -/
def Obligations.DecodeOfEncodedColorTruncates : Prop :=
  ∀ s : State, ∃ t u, exec .enc16 s = .next t ∧ exec .dec16 t = .next u ∧
    (colorR u.col).toNat = (colorR s.col).toNat - (colorR s.col).toNat % 8 ∧
    (colorG u.col).toNat = (colorG s.col).toNat - (colorG s.col).toNat % 8 ∧
    (colorB u.col).toNat = (colorB s.col).toNat - (colorB s.col).toNat % 8 ∧
    (colorA u.col).toNat = if (colorA s.col).toNat = 255 then 255 else 0

/-! Pixel codec (42_pixel_codec.md). -/

/-- R93 to R96: `PXDEC` of a true-colour type decodes `n` pixels from the bytes at `BPOS`, gives each index -1, passes
`BPOS` over the bytes, and changes nothing else. -/
def Obligations.PxdecTrueColor : Prop :=
  ∀ s : State, s.ict.isTrue = true → s.ImageFits →
    ∃ t, exec .pxdec s = .next t ∧ t = { s with pixMem := t.pixMem, bpos := t.bpos } ∧
      t.bpos.toNat = s.bpos.toNat + pixelBytes s.ict s.pixelCount ∧
      (∀ i, i < s.pixelCount → (t.pixAt i).index = -1 ∧
        (t.pixAt i).color = colorOfBytes s.ict (fun k => s.byteAt (s.bpos.toNat + s.ict.bpc * i + k))) ∧
      ∀ i, s.pixelCount ≤ i → t.pixAt i = s.pixAt i

/-- R93, R97, R98: `PXDEC` of an indexed type gives pixel `i` its index, and with `PALP` = 1 its palette colour; with
`PALP` = 0 nothing is said of the colour. It passes `BPOS` over the bytes and changes nothing else. -/
def Obligations.PxdecIndexed : Prop :=
  ∀ s : State, s.ict.isIndexed = true → s.ImageFits →
    (s.palp = true → s.plen.toNat ≤ Config.palCap ∧ ∀ i, i < s.pixelCount → s.storedIndex i < s.plen.toNat) →
    ∃ t, exec .pxdec s = .next t ∧ t = { s with pixMem := t.pixMem, bpos := t.bpos, draws := t.draws } ∧
      t.bpos.toNat = s.bpos.toNat + pixelBytes s.ict s.pixelCount ∧
      (∀ i, i < s.pixelCount → (t.pixAt i).index.toInt = s.storedIndex i ∧
        (s.palp = true → (t.pixAt i).color = s.palAt (s.storedIndex i))) ∧
      ∀ i, s.pixelCount ≤ i → t.pixAt i = s.pixAt i

/-- R93: `PXDEC` refuses a type that is `None`, 6 or 7, then an image that does not fit, then a palette longer than
`PAL_CAP` when it looks indices up; an index with no palette entry raises `IndexRange` and leaves `BPOS`. -/
def Obligations.PxdecFaults : Prop :=
  ∀ s : State, s.fault = false →
    (s.ict.isBad = true → ∃ t, exec .pxdec s = .next t ∧ s.FaultedAs .badColorType t) ∧
    (s.ict.isBad = false → ¬ s.ImageFits → ∃ t, exec .pxdec s = .next t ∧ s.FaultedAs .sizeOverrun t) ∧
    (s.ict.isIndexed = true → s.palp = true → s.ImageFits → Config.palCap < s.plen.toNat →
      ∃ t, exec .pxdec s = .next t ∧ s.FaultedAs .sizeOverrun t) ∧
    (s.ict.isIndexed = true → s.palp = true → s.ImageFits → s.plen.toNat ≤ Config.palCap →
      (∃ i, i < s.pixelCount ∧ s.plen.toNat ≤ s.storedIndex i) →
      ∃ t, exec .pxdec s = .next t ∧ t.status = statusFaulted s.status ∧ t.cause = 6 ∧ t.bpos = s.bpos)

/-- R100 to R103, R107: `PXENCT` writes the bytes of `n` colours from `BPOS` up, passes `BPOS` over them, and changes no
other byte and nothing else. -/
def Obligations.PxenctResult : Prop :=
  ∀ s : State, s.ict.isTrue = true → s.ImageFits →
    ∃ t, exec .pxenct s = .next t ∧ t = { s with byteMem := t.byteMem, bpos := t.bpos } ∧
      t.bpos.toNat = s.bpos.toNat + pixelBytes s.ict s.pixelCount ∧
      (∀ i k v, i < s.pixelCount → (colorBytes s.ict (s.pixAt i).color)[k]? = some v →
        t.byteAt (s.bpos.toNat + s.ict.bpc * i + k) = v) ∧
      ∀ a, a < s.bpos.toNat ∨ s.bpos.toNat + pixelBytes s.ict s.pixelCount ≤ a → t.byteAt a = s.byteAt a

/-- R100: `PXENCT` refuses an illegal type, then an indexed type, then an image that does not fit, and writes nothing. -/
def Obligations.PxenctFaults : Prop :=
  ∀ s : State, s.fault = false →
    (s.ict.isBad = true → ∃ t, exec .pxenct s = .next t ∧ s.FaultedAs .badColorType t) ∧
    (s.ict.isIndexed = true → ∃ t, exec .pxenct s = .next t ∧ s.FaultedAs .wrongPath t) ∧
    (s.ict.isTrue = true → ¬ s.ImageFits → ∃ t, exec .pxenct s = .next t ∧ s.FaultedAs .sizeOverrun t)

/-- R104, R105: `PXENCI` of `IndexColor8` writes each index as one byte when all lie in 0..255. -/
def Obligations.PxenciIndex8Result : Prop :=
  ∀ s : State, s.ict = .indexColor8 → s.ImageFits →
    (∀ i, i < s.pixelCount → 0 ≤ (s.pixAt i).index.toInt ∧ (s.pixAt i).index.toInt ≤ 255) →
    ∃ t, exec .pxenci s = .next t ∧ t = { s with byteMem := t.byteMem, bpos := t.bpos } ∧
      t.bpos.toNat = s.bpos.toNat + s.pixelCount ∧
      (∀ i, i < s.pixelCount → ((t.byteAt (s.bpos.toNat + i)).toNat : Int) = (s.pixAt i).index.toInt) ∧
      ∀ a, a < s.bpos.toNat ∨ s.bpos.toNat + s.pixelCount ≤ a → t.byteAt a = s.byteAt a

/-- R104, R106, R107: `PXENCI` of `IndexColor4` packs two indices a byte, the first in the low nibble, when all lie in
0..15; past an odd last pixel nothing is said of the high nibble. -/
def Obligations.PxenciIndex4Result : Prop :=
  ∀ s : State, s.ict = .indexColor4 → s.ImageFits →
    (∀ i, i < s.pixelCount → 0 ≤ (s.pixAt i).index.toInt ∧ (s.pixAt i).index.toInt ≤ 15) →
    ∃ t, exec .pxenci s = .next t ∧ t = { s with byteMem := t.byteMem, bpos := t.bpos, draws := t.draws } ∧
      t.bpos.toNat = s.bpos.toNat + (s.pixelCount + 1) / 2 ∧
      (∀ i, i < s.pixelCount →
        (((if i % 2 = 0 then (t.byteAt (s.bpos.toNat + i / 2)).extractLsb' 0 4
          else (t.byteAt (s.bpos.toNat + i / 2)).extractLsb' 4 4) : BitVec 4).toNat : Int) = (s.pixAt i).index.toInt) ∧
      ∀ a, a < s.bpos.toNat ∨ s.bpos.toNat + (s.pixelCount + 1) / 2 ≤ a → t.byteAt a = s.byteAt a

/-- R104: `PXENCI` refuses an illegal type, then a true-colour type, then an image that does not fit; an index that the
type's bytes cannot hold raises `IndexRange` and leaves `BPOS`. -/
def Obligations.PxenciFaults : Prop :=
  ∀ s : State, s.fault = false →
    (s.ict.isBad = true → ∃ t, exec .pxenci s = .next t ∧ s.FaultedAs .badColorType t) ∧
    (s.ict.isTrue = true → ∃ t, exec .pxenci s = .next t ∧ s.FaultedAs .wrongPath t) ∧
    (s.ict.isIndexed = true → ¬ s.ImageFits → ∃ t, exec .pxenci s = .next t ∧ s.FaultedAs .sizeOverrun t) ∧
    (s.ict.isIndexed = true → s.ImageFits →
      (∃ i, i < s.pixelCount ∧ ((s.pixAt i).index.toInt < 0 ∨
        (if s.ict = .indexColor4 then 15 else 255) < (s.pixAt i).index.toInt)) →
      ∃ t, exec .pxenci s = .next t ∧ t.status = statusFaulted s.status ∧ t.cause = 6 ∧ t.bpos = s.bpos)

/-- R108: `PXRES` gives each pixel the palette colour of its index, keeps the index, and changes nothing else. -/
def Obligations.PxresResult : Prop :=
  ∀ s : State, s.ict.isIndexed = true → s.pixelCount ≤ Config.pixCap → s.plen.toNat ≤ Config.palCap →
    (∀ i, i < s.pixelCount → 0 ≤ (s.pixAt i).index.toInt ∧ (s.pixAt i).index.toInt < s.plen.toNat) →
    ∃ t, exec .pxres s = .next t ∧ t = { s with pixMem := t.pixMem } ∧
      (∀ i, i < s.pixelCount → (t.pixAt i).index = (s.pixAt i).index ∧
        (t.pixAt i).color = s.palAt (s.pixAt i).index.toInt.toNat) ∧
      ∀ i, s.pixelCount ≤ i → t.pixAt i = s.pixAt i

/-- R108: `PXRES` refuses an illegal type, then a true-colour type, then too many pixels or too long a palette; an index
with no palette entry raises `IndexRange`. -/
def Obligations.PxresFaults : Prop :=
  ∀ s : State, s.fault = false →
    (s.ict.isBad = true → ∃ t, exec .pxres s = .next t ∧ s.FaultedAs .badColorType t) ∧
    (s.ict.isTrue = true → ∃ t, exec .pxres s = .next t ∧ s.FaultedAs .wrongPath t) ∧
    (s.ict.isIndexed = true → Config.pixCap < s.pixelCount ∨ Config.palCap < s.plen.toNat →
      ∃ t, exec .pxres s = .next t ∧ s.FaultedAs .sizeOverrun t) ∧
    (s.ict.isIndexed = true → s.pixelCount ≤ Config.pixCap → s.plen.toNat ≤ Config.palCap →
      (∃ i, i < s.pixelCount ∧ ((s.pixAt i).index.toInt < 0 ∨ (s.plen.toNat : Int) ≤ (s.pixAt i).index.toInt)) →
      ∃ t, exec .pxres s = .next t ∧ t.status = statusFaulted s.status ∧ t.cause = 6)

/-- R109, both directions. `PXDEC`, then `BPOS` set back, then the encode of the same family, rewrites the same bytes: no
byte of BYTE differs, but for the high nibble of the last byte when a 4-bit image has an odd number of pixels. The encode,
then `BPOS` set back, then `PXDEC`, returns each colour as far as its true-colour type keeps it, and each index of an
indexed type. -/
def Obligations.PixelRoundTrips : Prop :=
  ∀ s : State, s.ImageFits →
    (s.ict.isTrue = true →
      ∃ t u, exec .pxdec s = .next t ∧ exec .pxenct (t.atPos s.bpos) = .next u ∧ u.fault = s.fault ∧
        u.bpos = t.bpos ∧ ∀ a, u.byteAt a = s.byteAt a) ∧
    (s.ict.isIndexed = true →
      (s.palp = true → s.plen.toNat ≤ Config.palCap ∧ ∀ i, i < s.pixelCount → s.storedIndex i < s.plen.toNat) →
      ∃ t u, exec .pxdec s = .next t ∧ exec .pxenci (t.atPos s.bpos) = .next u ∧ u.fault = s.fault ∧
        u.bpos = t.bpos ∧
        ∀ a, (u.byteAt a).extractLsb' 0 4 = (s.byteAt a).extractLsb' 0 4 ∧
          (¬ (s.ict = .indexColor4 ∧ s.pixelCount % 2 = 1 ∧ a + 1 = s.bpos.toNat + pixelBytes s.ict s.pixelCount) →
            u.byteAt a = s.byteAt a)) ∧
    (s.ict.isTrue = true →
      ∃ t u, exec .pxenct s = .next t ∧ exec .pxdec (t.atPos s.bpos) = .next u ∧ u.fault = s.fault ∧
        ∀ i, i < s.pixelCount → (u.pixAt i).color = colorKept s.ict (s.pixAt i).color) ∧
    (s.ict.isIndexed = true →
      (∀ i, i < s.pixelCount → 0 ≤ (s.pixAt i).index.toInt ∧
        (s.pixAt i).index.toInt ≤ if s.ict = .indexColor4 then 15 else 255) →
      (s.palp = true → s.plen.toNat ≤ Config.palCap ∧
        ∀ i, i < s.pixelCount → (s.pixAt i).index.toInt < s.plen.toNat) →
      ∃ t u, exec .pxenci s = .next t ∧ exec .pxdec (t.atPos s.bpos) = .next u ∧ u.fault = s.fault ∧
        ∀ i, i < s.pixelCount → (u.pixAt i).index = (s.pixAt i).index)

/-! CLUT payload codec (43_clut_codec.md). -/

/-- R112, R115 to R118: `CLDEC` decodes `CLBYTES div bpc` colours from the bytes at `BPOS` into PAL, sets `PLEN`, passes
`BPOS` over the bytes, and changes nothing else. -/
def Obligations.CldecResult : Prop :=
  ∀ s : State, s.cct.isTrue = true → s.ClutFits s.clutCount →
    ∃ t, exec .cldec s = .next t ∧ t = { s with palMem := t.palMem, plen := t.plen, bpos := t.bpos } ∧
      t.plen.toNat = s.clutCount ∧ t.bpos.toNat = s.bpos.toNat + s.clutCount * s.cct.bpc ∧
      (∀ i, i < s.clutCount →
        t.palAt i = colorOfBytes s.cct (fun k => s.byteAt (s.bpos.toNat + s.cct.bpc * i + k))) ∧
      ∀ i, s.clutCount ≤ i → t.palAt i = s.palAt i

/-- R119 to R122: `CLENC` writes the bytes of `PLEN` colours from `BPOS` up, passes `BPOS` over them, and changes no other
byte and nothing else. -/
def Obligations.ClencResult : Prop :=
  ∀ s : State, s.cct.isTrue = true → s.ClutFits s.plen.toNat →
    ∃ t, exec .clenc s = .next t ∧ t = { s with byteMem := t.byteMem, bpos := t.bpos } ∧
      t.bpos.toNat = s.bpos.toNat + s.plen.toNat * s.cct.bpc ∧
      (∀ i k v, i < s.plen.toNat → (colorBytes s.cct (s.palAt i))[k]? = some v →
        t.byteAt (s.bpos.toNat + s.cct.bpc * i + k) = v) ∧
      ∀ a, a < s.bpos.toNat ∨ s.bpos.toNat + s.plen.toNat * s.cct.bpc ≤ a → t.byteAt a = s.byteAt a

/-- R113, R115, R119: `CLDEC` and `CLENC` refuse a type that is not true colour, then colours that do not fit, and write
nothing. -/
def Obligations.ClutFaults : Prop :=
  ∀ s : State, s.fault = false →
    (s.cct.isTrue = false → ∃ t, exec .cldec s = .next t ∧ s.FaultedAs .badColorType t) ∧
    (s.cct.isTrue = false → ∃ t, exec .clenc s = .next t ∧ s.FaultedAs .badColorType t) ∧
    (s.cct.isTrue = true → ¬ s.ClutFits s.clutCount → ∃ t, exec .cldec s = .next t ∧ s.FaultedAs .sizeOverrun t) ∧
    (s.cct.isTrue = true → ¬ s.ClutFits s.plen.toNat → ∃ t, exec .clenc s = .next t ∧ s.FaultedAs .sizeOverrun t)

/-- R123, both directions: `CLDEC`, then `BPOS` set back, then `CLENC`, rewrites the same bytes, no byte of BYTE differing;
`CLENC`, then `BPOS` set back, then `CLDEC` with `CLBYTES` = `PLEN * bpc`, returns each colour as far as its type keeps it. -/
def Obligations.ClutRoundTrips : Prop :=
  ∀ s : State, s.cct.isTrue = true →
    (s.ClutFits s.clutCount →
      ∃ t u, exec .cldec s = .next t ∧ exec .clenc (t.atPos s.bpos) = .next u ∧ u.fault = s.fault ∧
        u.bpos = t.bpos ∧ ∀ a, u.byteAt a = s.byteAt a) ∧
    (s.ClutFits s.plen.toNat → s.clbytes.toNat = s.plen.toNat * s.cct.bpc →
      ∃ t u, exec .clenc s = .next t ∧ exec .cldec (t.atPos s.bpos) = .next u ∧ u.fault = s.fault ∧
        u.plen = s.plen ∧ ∀ i, i < s.plen.toNat → u.palAt i = colorKept s.cct (s.palAt i))

/-! Palette reorder engine (44_clut_transform.md). -/

/-- R126, R127: `CLSWZ` replaces the palette `P` by `P'` with `P'[i] = P[s(i)]` in the complete runs of 32, leaves the
tail and every entry beyond it, and changes nothing else; `s` is its own inverse. -/
def Obligations.ClswzPermutesThePalette : Prop :=
  (∀ i, swapPos (swapPos i) = i) ∧
  ∀ s : State, s.plen.toNat ≤ Config.palCap →
    ∃ t, exec .clswz s = .next t ∧ t = { s with palMem := t.palMem } ∧
      (∀ i, i < 32 * (s.plen.toNat / 32) → t.palAt i = s.palAt (swapPos i)) ∧
      ∀ i, 32 * (s.plen.toNat / 32) ≤ i → t.palAt i = s.palAt i

/-- R131: two `CLSWZ` in a row, or two `CLCMP` in a row, leave PAL as it was. -/
def Obligations.ReorderTwiceRestores : Prop :=
  ∀ i ∈ [Instr.clswz, Instr.clcmp], ∀ s : State, s.plen.toNat ≤ Config.palCap →
    ∃ t u, exec i s = .next t ∧ exec i t = .next u ∧ u.plen = s.plen ∧ u.cfg = s.cfg ∧ ∀ k, u.palAt k = s.palAt k

/-- R128, R129: when `CSM1` = 1 and not (`ICT` = `IndexColor4` and `CCF` = 0), `CLCMP` ends as `CLSWZ` does, its
`SizeOverrun` included; in every other case it changes nothing and cannot fault. -/
def Obligations.ClcmpFollowsItsTest : Prop :=
  ∀ s : State,
    (s.cfg.getLsbD 6 = true ∧ ¬ (s.cfg.extractLsb' 0 3 = 4#3 ∧ s.cfg.getLsbD 7 = false) →
      ∃ t, exec .clcmp s = .next t ∧ exec .clswz s = .next t ∧
        (s.plen.toNat ≤ Config.palCap → t = { s with palMem := t.palMem } ∧
          (∀ i, i < 32 * (s.plen.toNat / 32) → t.palAt i = s.palAt (swapPos i)) ∧
          ∀ i, 32 * (s.plen.toNat / 32) ≤ i → t.palAt i = s.palAt i) ∧
        (Config.palCap < s.plen.toNat → s.fault = false → s.FaultedAs .sizeOverrun t)) ∧
    (¬ (s.cfg.getLsbD 6 = true ∧ ¬ (s.cfg.extractLsb' 0 3 = 4#3 ∧ s.cfg.getLsbD 7 = false)) →
      exec .clcmp s = .next s)

/-- R125, R138: `CLSWZ` on a palette longer than `PAL_CAP`, and `GSENC` with fewer than 16 bytes left, raise
`SizeOverrun` before anything is written. -/
def Obligations.ClswzAndGsencOverrunFault : Prop :=
  ∀ s : State, s.fault = false →
    (Config.palCap < s.plen.toNat → ∃ t, exec .clswz s = .next t ∧ s.FaultedAs .sizeOverrun t) ∧
    (Config.byteSize < s.bpos.toNat + 16 → ∃ t, exec .gsenc s = .next t ∧ s.FaultedAs .sizeOverrun t)

/-! GsTex register words (45_gstex.md). -/

/-- R134: `GSDEC` reads two little-endian words from the 16 bytes at `BPOS`, keeps them in `TEX0` and `TEX1`, gives every
field register its slice, passes `BPOS` over the bytes, and changes nothing else. -/
def Obligations.GsdecResult : Prop :=
  ∀ (s : State) (w0 w1 : BitVec 64), s.bpos.toNat + 16 ≤ Config.byteSize →
    (∀ k, k < 8 → s.byteAt (s.bpos.toNat + k) = w0.extractLsb' (8 * k) 8) →
    (∀ k, k < 8 → s.byteAt (s.bpos.toNat + 8 + k) = w1.extractLsb' (8 * k) 8) →
    w1 &&& 0xFFFFF000FFE7FC02 = 0 →
    ∃ t, exec .gsdec s = .next t ∧
      t = { s with tex0 := w0, tex1 := w1, bpos := t.bpos, gf :=
        { bp := w0.extractLsb' 0 14, bw := w0.extractLsb' 14 6, psm := w0.extractLsb' 20 6, wl2 := w0.extractLsb' 26 4,
          hl2 := w0.extractLsb' 30 4, cc := w0.extractLsb' 34 1, tf := w0.extractLsb' 35 2, cbp := w0.extractLsb' 37 14,
          cpsm := w0.extractLsb' 51 4, csm := w0.extractLsb' 55 1, csa := w0.extractLsb' 56 5, clc := w0.extractLsb' 61 3,
          lcm := w1.extractLsb' 0 1, mxl := w1.extractLsb' 2 3, mmag := w1.extractLsb' 5 1, mmin := w1.extractLsb' 6 3,
          mba := w1.extractLsb' 9 1, lodl := w1.extractLsb' 19 2, lodk := w1.extractLsb' 32 12 } } ∧
      t.bpos.toNat = s.bpos.toNat + 16

/-- R134, R135: `GSDEC` faults with `SizeOverrun` when the 16 bytes do not fit, and with `InvalidRegisterData` when any
reserved bit of word 1 is 1; then nothing but `STATUS` and `CAUSE` changes. -/
def Obligations.GsdecFaults : Prop :=
  ∀ s : State, s.fault = false →
    (Config.byteSize < s.bpos.toNat + 16 → ∃ t, exec .gsdec s = .next t ∧ s.FaultedAs .sizeOverrun t) ∧
    (∀ w1 : BitVec 64, s.bpos.toNat + 16 ≤ Config.byteSize →
      (∀ k, k < 8 → s.byteAt (s.bpos.toNat + 8 + k) = w1.extractLsb' (8 * k) 8) →
      w1 &&& 0xFFFFF000FFE7FC02 ≠ 0 →
      ∃ t, exec .gsdec s = .next t ∧ s.FaultedAs .invalidRegisterData t)

/-- R138, R139: `GSENC` builds each word with its fields in place and 0 in every reserved bit, keeps the words in `TEX0`
and `TEX1`, stores them little-endian at `BPOS` and `BPOS + 8`, passes `BPOS` over them, and changes nothing else. -/
def Obligations.GsencResult : Prop :=
  ∀ s : State, s.bpos.toNat + 16 ≤ Config.byteSize →
    ∃ t, exec .gsenc s = .next t ∧
      t = { s with tex0 := t.tex0, tex1 := t.tex1, byteMem := t.byteMem, bpos := t.bpos } ∧
      t.bpos.toNat = s.bpos.toNat + 16 ∧
      t.tex0 = s.gf.clc ++ s.gf.csa ++ s.gf.csm ++ s.gf.cpsm ++ s.gf.cbp ++ s.gf.tf ++ s.gf.cc ++ s.gf.hl2 ++ s.gf.wl2 ++
        s.gf.psm ++ s.gf.bw ++ s.gf.bp ∧
      t.tex1 = 0#20 ++ s.gf.lodk ++ 0#11 ++ s.gf.lodl ++ 0#9 ++ s.gf.mba ++ s.gf.mmin ++ s.gf.mmag ++ s.gf.mxl ++ 0#1 ++
        s.gf.lcm ∧
      (∀ k, k < 8 → t.byteAt (s.bpos.toNat + k) = t.tex0.extractLsb' (8 * k) 8) ∧
      (∀ k, k < 8 → t.byteAt (s.bpos.toNat + 8 + k) = t.tex1.extractLsb' (8 * k) 8) ∧
      ∀ a, a < s.bpos.toNat ∨ s.bpos.toNat + 16 ≤ a → t.byteAt a = s.byteAt a

/-- R140: `GSENC`, then `BPOS` set back by 16, then `GSDEC`, restores every field register and does not fault; `GSDEC`
that completes, then `BPOS` set back by 16, then `GSENC`, rewrites the same 16 bytes, no byte of BYTE differing. -/
def Obligations.GsTexRoundTrips : Prop :=
  ∀ s : State, s.bpos.toNat + 16 ≤ Config.byteSize →
    (∃ t u, exec .gsenc s = .next t ∧ exec .gsdec (t.atPos s.bpos) = .next u ∧ u.gf = s.gf ∧
      u.fault = s.fault ∧ u.bpos = t.bpos) ∧
    ∀ t : State, s.fault = false → exec .gsdec s = .next t → t.fault = false →
      ∃ u, exec .gsenc (t.atPos s.bpos) = .next u ∧ u.fault = false ∧ u.bpos = t.bpos ∧ u.tex0 = t.tex0 ∧
        u.tex1 = t.tex1 ∧ ∀ a, u.byteAt a = s.byteAt a
end

