-- ==== Sys2Proof/Laws/Memory.lean ====
section
/-! SUPPORT. What the memory operations and the two loops do, once (20_memory.md R40, R42). -/

namespace Sys2Proof.Machine

variable {α : Type}

@[simp] theorem Memory.read_nil (a : Nat) : Memory.read ([] : Memory α) a = none := rfl

@[simp] theorem Memory.read_write_self (m : Memory α) (a : Nat) (v : α) : (m.write a v).read a = some v := by
  induction m with
  | nil => simp [Memory.write, Memory.read]
  | cons x m ih =>
    obtain ⟨b, w⟩ := x
    by_cases h1 : a < b
    · simp [Memory.write, Memory.read, h1]
    · by_cases h2 : a = b
      · simp [Memory.write, Memory.read, h2]
      · simp [Memory.write, Memory.read, h1, h2, ih]

theorem Memory.read_write_of_ne (m : Memory α) {a c : Nat} (v : α) (h : c ≠ a) :
    (m.write a v).read c = m.read c := by
  induction m with
  | nil => simp [Memory.write, Memory.read, h]
  | cons x m ih =>
    obtain ⟨b, w⟩ := x
    by_cases h1 : a < b
    · simp [Memory.write, Memory.read, h1, h]
    · by_cases h2 : a = b
      · subst h2
        simp [Memory.write, Memory.read, h]
      · by_cases h3 : c = b
        · simp [Memory.write, Memory.read, h1, h2, h3]
        · simp [Memory.write, Memory.read, h1, h2, h3, ih]

theorem Memory.read_write (m : Memory α) (a c : Nat) (v : α) :
    (m.write a v).read c = if c = a then some v else m.read c := by
  split
  · subst_vars; simp
  · exact Memory.read_write_of_ne m v ‹_›

theorem Memory.mem_write {m : Memory α} {a : Nat} {v : α} {x : Nat × α} (h : x ∈ m.write a v) :
    x = (a, v) ∨ x ∈ m := by
  induction m with
  | nil => exact .inl (by simpa [Memory.write] using h)
  | cons y m ih =>
    obtain ⟨b, w⟩ := y
    simp only [Memory.write] at h
    split at h
    · simpa using h
    · split at h
      · rcases List.mem_cons.1 h with h | h
        · exact .inl h
        · exact .inr (List.mem_cons_of_mem _ h)
      · rcases List.mem_cons.1 h with h | h
        · exact .inr (by simp [h])
        · rcases ih h with h | h
          · exact .inl h
          · exact .inr (List.mem_cons_of_mem _ h)

/-- A write keeps the canonical form. -/
theorem Memory.wf_write {m : Memory α} (h : m.wf) (a : Nat) (v : α) : (m.write a v).wf := by
  induction m with
  | nil => simp [Memory.write]
  | cons y m ih =>
    obtain ⟨b, w⟩ := y
    obtain ⟨hb, hm⟩ := List.pairwise_cons.1 h
    simp only [Memory.write]
    split
    · rename_i hab
      refine List.pairwise_cons.2 ⟨fun x hx => ?_, h⟩
      rcases List.mem_cons.1 hx with rfl | hx
      · exact hab
      · exact Nat.lt_trans hab (hb x hx)
    · split
      · rename_i hab
        subst hab
        exact List.pairwise_cons.2 ⟨hb, hm⟩
      · refine List.pairwise_cons.2 ⟨fun x hx => ?_, ih hm⟩
        rcases Memory.mem_write hx with rfl | hx
        · show b < a
          omega
        · exact hb x hx

/-- A write below the capacity stays below it. -/
theorem Memory.within_write {m : Memory α} {cap : Nat} (h : m.within cap) {a : Nat} (ha : a < cap) (v : α) :
    (m.write a v).within cap := fun _ hx => by
  rcases Memory.mem_write hx with rfl | hx
  · exact ha
  · exact h _ hx

/-- A loop keeps what each of its passes keeps. -/
theorem forUpTo_induct {β : Type} (P : β → Prop) {n : Nat} {f : Nat → β → β} {x : β} (h0 : P x)
    (hs : ∀ i y, i < n → P y → P (f i y)) : P (forUpTo n f x) := by
  induction n with
  | zero => exact h0
  | succ n ih => exact hs n _ (Nat.lt_succ_self n) (ih fun i y hi => hs i y (Nat.lt_succ_of_lt hi))

/-- A loop whose passes write `v i` at `base + i` leaves exactly those cells changed. -/
theorem read_forUpTo_write (m : Memory α) (base n a : Nat) (v : Nat → α) :
    (forUpTo n (fun i m => m.write (base + i) (v i)) m).read a =
      if base ≤ a ∧ a < base + n then some (v (a - base)) else m.read a := by
  induction n with
  | zero => simp [forUpTo]
  | succ n ih =>
    rw [forUpTo, Memory.read_write, ih]
    by_cases h : a = base + n
    · subst h
      simp
    · rw [if_neg h]
      by_cases h2 : base ≤ a ∧ a < base + n
      · rw [if_pos h2, if_pos ⟨h2.1, by omega⟩]
      · rw [if_neg h2, if_neg (by omega)]

/-- The same from entry 0 up. -/
theorem read_forUpTo_write_zero (m : Memory α) (n a : Nat) (v : Nat → α) :
    (forUpTo n (fun i m => m.write i (v i)) m).read a = if a < n then some (v a) else m.read a := by
  simpa using read_forUpTo_write m 0 n a v

theorem someBelow_eq_true {n : Nat} {p : Nat → Bool} : someBelow n p = true ↔ ∃ i, i < n ∧ p i = true := by
  induction n with
  | zero => simp [someBelow]
  | succ n ih =>
    rw [someBelow, Bool.or_eq_true, ih]
    constructor
    · rintro (⟨i, hi, hp⟩ | hp)
      · exact ⟨i, by omega, hp⟩
      · exact ⟨n, by omega, hp⟩
    · rintro ⟨i, hi, hp⟩
      by_cases h : i = n
      · exact .inr (h ▸ hp)
      · exact .inl ⟨i, by omega, hp⟩

theorem someBelow_eq_false {n : Nat} {p : Nat → Bool} : someBelow n p = false ↔ ∀ i, i < n → p i = false := by
  rw [← Bool.not_eq_true, someBelow_eq_true]
  simp

/-- What `MemWrite` does to every byte (R42). -/
theorem Memory.read_storeLE (m : Memory Byte) (addr n v a : Nat) :
    (m.storeLE addr n v).read a =
      if addr ≤ a ∧ a < addr + n then some (BitVec.ofNat 8 (v >>> (8 * (a - addr)))) else m.read a :=
  read_forUpTo_write m addr n a fun k => BitVec.ofNat 8 (v >>> (8 * k))

theorem Memory.wf_storeLE {m : Memory Byte} (h : m.wf) (addr n v : Nat) : (m.storeLE addr n v).wf :=
  forUpTo_induct Memory.wf h fun _ _ _ hy => Memory.wf_write hy _ _

theorem Memory.within_storeLE {m : Memory Byte} {cap : Nat} (h : m.within cap) {addr n : Nat} (ha : addr + n ≤ cap)
    (v : Nat) : (m.storeLE addr n v).within cap :=
  forUpTo_induct (Memory.within · cap) h fun i _ hi hy => Memory.within_write hy (by omega) _

/-- A loop that stores `w` bytes of `v i` at `base + w * i`, pass by pass, leaves exactly those bytes changed. -/
theorem read_forUpTo_storeLE (m : Memory Byte) (base w n a : Nat) (v : Nat → Nat) (hw : 0 < w) :
    (forUpTo n (fun i m => m.storeLE (base + w * i) w (v i)) m).read a =
      if base ≤ a ∧ a < base + w * n then
        some (BitVec.ofNat 8 (v ((a - base) / w) >>> (8 * ((a - base) % w))))
      else m.read a := by
  induction n with
  | zero => simp [forUpTo]
  | succ n ih =>
    have hmul : w * (n + 1) = w * n + w := Nat.mul_succ w n
    rw [forUpTo, Memory.read_storeLE, ih]
    by_cases h : base + w * n ≤ a ∧ a < base + w * n + w
    · obtain ⟨k, rfl⟩ := Nat.exists_eq_add_of_le h.1
      have hk : k < w := by omega
      have e : base + w * n + k - base = w * n + k := by omega
      rw [if_pos ⟨by omega, by omega⟩, if_pos ⟨by omega, by omega⟩, e, Nat.mul_add_div hw, Nat.mul_add_mod,
        Nat.div_eq_of_lt hk, Nat.mod_eq_of_lt hk]
      simp
    · rw [if_neg h]
      by_cases h2 : base ≤ a ∧ a < base + w * n
      · rw [if_pos h2, if_pos ⟨h2.1, by omega⟩]
      · rw [if_neg h2, if_neg (by omega)]

end Sys2Proof.Machine
end

