-- ==== Sys2Proof/Laws/State.lean ====
section
/-! SUPPORT. One lemma per field per named update of the state, each by unfolding the update once; no later proof unfolds
a record update. -/

namespace Sys2Proof.Machine

@[simp] theorem State.raise_status (s : State) (c : Cause) : (s.raise c).status = statusFaulted s.status := rfl

@[simp] theorem State.raise_cause (s : State) (c : Cause) : (s.raise c).cause = if s.fault then s.cause else causeCode c := rfl

@[simp] theorem State.raise_cfg (s : State) (c : Cause) : (s.raise c).cfg = s.cfg := rfl

@[simp] theorem State.raise_word (s : State) (c : Cause) : (s.raise c).word = s.word := rfl

@[simp] theorem State.raise_val (s : State) (c : Cause) : (s.raise c).val = s.val := rfl

@[simp] theorem State.raise_pixw (s : State) (c : Cause) : (s.raise c).pixw = s.pixw := rfl

@[simp] theorem State.raise_col (s : State) (c : Cause) : (s.raise c).col = s.col := rfl

@[simp] theorem State.raise_imgw (s : State) (c : Cause) : (s.raise c).imgw = s.imgw := rfl

@[simp] theorem State.raise_imgh (s : State) (c : Cause) : (s.raise c).imgh = s.imgh := rfl

@[simp] theorem State.raise_clbytes (s : State) (c : Cause) : (s.raise c).clbytes = s.clbytes := rfl

@[simp] theorem State.raise_plen (s : State) (c : Cause) : (s.raise c).plen = s.plen := rfl

@[simp] theorem State.raise_bpos (s : State) (c : Cause) : (s.raise c).bpos = s.bpos := rfl

@[simp] theorem State.raise_tex0 (s : State) (c : Cause) : (s.raise c).tex0 = s.tex0 := rfl

@[simp] theorem State.raise_tex1 (s : State) (c : Cause) : (s.raise c).tex1 = s.tex1 := rfl

@[simp] theorem State.raise_gf (s : State) (c : Cause) : (s.raise c).gf = s.gf := rfl

@[simp] theorem State.raise_byteMem (s : State) (c : Cause) : (s.raise c).byteMem = s.byteMem := rfl

@[simp] theorem State.raise_pixMem (s : State) (c : Cause) : (s.raise c).pixMem = s.pixMem := rfl

@[simp] theorem State.raise_palMem (s : State) (c : Cause) : (s.raise c).palMem = s.palMem := rfl

@[simp] theorem State.raise_inbox (s : State) (c : Cause) : (s.raise c).inbox = s.inbox := rfl

@[simp] theorem State.raise_readback (s : State) (c : Cause) : (s.raise c).readback = s.readback := rfl

@[simp] theorem State.raise_draws (s : State) (c : Cause) : (s.raise c).draws = s.draws := rfl

@[simp] theorem State.raise_memDraw (s : State) (c : Cause) : (s.raise c).memDraw = s.memDraw := rfl

@[simp] theorem State.begin_status (s : State) : (s.begin).status = statusBusy s.status := rfl

@[simp] theorem State.begin_cause (s : State) : (s.begin).cause = s.cause := rfl

@[simp] theorem State.begin_cfg (s : State) : (s.begin).cfg = s.cfg := rfl

@[simp] theorem State.begin_word (s : State) : (s.begin).word = s.word := rfl

@[simp] theorem State.begin_val (s : State) : (s.begin).val = s.val := rfl

@[simp] theorem State.begin_pixw (s : State) : (s.begin).pixw = s.pixw := rfl

@[simp] theorem State.begin_col (s : State) : (s.begin).col = s.col := rfl

@[simp] theorem State.begin_imgw (s : State) : (s.begin).imgw = s.imgw := rfl

@[simp] theorem State.begin_imgh (s : State) : (s.begin).imgh = s.imgh := rfl

@[simp] theorem State.begin_clbytes (s : State) : (s.begin).clbytes = s.clbytes := rfl

@[simp] theorem State.begin_plen (s : State) : (s.begin).plen = s.plen := rfl

@[simp] theorem State.begin_bpos (s : State) : (s.begin).bpos = s.bpos := rfl

@[simp] theorem State.begin_tex0 (s : State) : (s.begin).tex0 = s.tex0 := rfl

@[simp] theorem State.begin_tex1 (s : State) : (s.begin).tex1 = s.tex1 := rfl

@[simp] theorem State.begin_gf (s : State) : (s.begin).gf = s.gf := rfl

@[simp] theorem State.begin_byteMem (s : State) : (s.begin).byteMem = s.byteMem := rfl

@[simp] theorem State.begin_pixMem (s : State) : (s.begin).pixMem = s.pixMem := rfl

@[simp] theorem State.begin_palMem (s : State) : (s.begin).palMem = s.palMem := rfl

@[simp] theorem State.begin_inbox (s : State) : (s.begin).inbox = s.inbox := rfl

@[simp] theorem State.begin_readback (s : State) : (s.begin).readback = s.readback := rfl

@[simp] theorem State.begin_draws (s : State) : (s.begin).draws = s.draws := rfl

@[simp] theorem State.begin_memDraw (s : State) : (s.begin).memDraw = s.memDraw := rfl

@[simp] theorem State.complete_status (s : State) : (s.complete).status = statusIdle s.status := rfl

@[simp] theorem State.complete_cause (s : State) : (s.complete).cause = s.cause := rfl

@[simp] theorem State.complete_cfg (s : State) : (s.complete).cfg = s.cfg := rfl

@[simp] theorem State.complete_word (s : State) : (s.complete).word = s.word := rfl

@[simp] theorem State.complete_val (s : State) : (s.complete).val = s.val := rfl

@[simp] theorem State.complete_pixw (s : State) : (s.complete).pixw = s.pixw := rfl

@[simp] theorem State.complete_col (s : State) : (s.complete).col = s.col := rfl

@[simp] theorem State.complete_imgw (s : State) : (s.complete).imgw = s.imgw := rfl

@[simp] theorem State.complete_imgh (s : State) : (s.complete).imgh = s.imgh := rfl

@[simp] theorem State.complete_clbytes (s : State) : (s.complete).clbytes = s.clbytes := rfl

@[simp] theorem State.complete_plen (s : State) : (s.complete).plen = s.plen := rfl

@[simp] theorem State.complete_bpos (s : State) : (s.complete).bpos = s.bpos := rfl

@[simp] theorem State.complete_tex0 (s : State) : (s.complete).tex0 = s.tex0 := rfl

@[simp] theorem State.complete_tex1 (s : State) : (s.complete).tex1 = s.tex1 := rfl

@[simp] theorem State.complete_gf (s : State) : (s.complete).gf = s.gf := rfl

@[simp] theorem State.complete_byteMem (s : State) : (s.complete).byteMem = s.byteMem := rfl

@[simp] theorem State.complete_pixMem (s : State) : (s.complete).pixMem = s.pixMem := rfl

@[simp] theorem State.complete_palMem (s : State) : (s.complete).palMem = s.palMem := rfl

@[simp] theorem State.complete_inbox (s : State) : (s.complete).inbox = s.inbox := rfl

@[simp] theorem State.complete_readback (s : State) : (s.complete).readback = s.readback := rfl

@[simp] theorem State.complete_draws (s : State) : (s.complete).draws = s.draws := rfl

@[simp] theorem State.complete_memDraw (s : State) : (s.complete).memDraw = s.memDraw := rfl

@[simp] theorem State.scramblePix_status (s : State) (n : Nat) : (s.scramblePix n).status = s.status := rfl

@[simp] theorem State.scramblePix_cause (s : State) (n : Nat) : (s.scramblePix n).cause = s.cause := rfl

@[simp] theorem State.scramblePix_cfg (s : State) (n : Nat) : (s.scramblePix n).cfg = s.cfg := rfl

@[simp] theorem State.scramblePix_word (s : State) (n : Nat) : (s.scramblePix n).word = s.word := rfl

@[simp] theorem State.scramblePix_val (s : State) (n : Nat) : (s.scramblePix n).val = s.val := rfl

@[simp] theorem State.scramblePix_pixw (s : State) (n : Nat) : (s.scramblePix n).pixw = s.pixw := rfl

@[simp] theorem State.scramblePix_col (s : State) (n : Nat) : (s.scramblePix n).col = s.col := rfl

@[simp] theorem State.scramblePix_imgw (s : State) (n : Nat) : (s.scramblePix n).imgw = s.imgw := rfl

@[simp] theorem State.scramblePix_imgh (s : State) (n : Nat) : (s.scramblePix n).imgh = s.imgh := rfl

@[simp] theorem State.scramblePix_clbytes (s : State) (n : Nat) : (s.scramblePix n).clbytes = s.clbytes := rfl

@[simp] theorem State.scramblePix_plen (s : State) (n : Nat) : (s.scramblePix n).plen = s.plen := rfl

@[simp] theorem State.scramblePix_bpos (s : State) (n : Nat) : (s.scramblePix n).bpos = s.bpos := rfl

@[simp] theorem State.scramblePix_tex0 (s : State) (n : Nat) : (s.scramblePix n).tex0 = s.tex0 := rfl

@[simp] theorem State.scramblePix_tex1 (s : State) (n : Nat) : (s.scramblePix n).tex1 = s.tex1 := rfl

@[simp] theorem State.scramblePix_gf (s : State) (n : Nat) : (s.scramblePix n).gf = s.gf := rfl

@[simp] theorem State.scramblePix_byteMem (s : State) (n : Nat) : (s.scramblePix n).byteMem = s.byteMem := rfl

@[simp] theorem State.scramblePix_palMem (s : State) (n : Nat) : (s.scramblePix n).palMem = s.palMem := rfl

@[simp] theorem State.scramblePix_inbox (s : State) (n : Nat) : (s.scramblePix n).inbox = s.inbox := rfl

@[simp] theorem State.scramblePix_readback (s : State) (n : Nat) : (s.scramblePix n).readback = s.readback := rfl

@[simp] theorem State.scramblePix_draws (s : State) (n : Nat) : (s.scramblePix n).draws = s.draws + 1 := rfl

@[simp] theorem State.scramblePix_memDraw (s : State) (n : Nat) : (s.scramblePix n).memDraw = s.memDraw := rfl

@[simp] theorem State.scrambleColors_status (s : State) (n : Nat) : (s.scrambleColors n).status = s.status := rfl

@[simp] theorem State.scrambleColors_cause (s : State) (n : Nat) : (s.scrambleColors n).cause = s.cause := rfl

@[simp] theorem State.scrambleColors_cfg (s : State) (n : Nat) : (s.scrambleColors n).cfg = s.cfg := rfl

@[simp] theorem State.scrambleColors_word (s : State) (n : Nat) : (s.scrambleColors n).word = s.word := rfl

@[simp] theorem State.scrambleColors_val (s : State) (n : Nat) : (s.scrambleColors n).val = s.val := rfl

@[simp] theorem State.scrambleColors_pixw (s : State) (n : Nat) : (s.scrambleColors n).pixw = s.pixw := rfl

@[simp] theorem State.scrambleColors_col (s : State) (n : Nat) : (s.scrambleColors n).col = s.col := rfl

@[simp] theorem State.scrambleColors_imgw (s : State) (n : Nat) : (s.scrambleColors n).imgw = s.imgw := rfl

@[simp] theorem State.scrambleColors_imgh (s : State) (n : Nat) : (s.scrambleColors n).imgh = s.imgh := rfl

@[simp] theorem State.scrambleColors_clbytes (s : State) (n : Nat) : (s.scrambleColors n).clbytes = s.clbytes := rfl

@[simp] theorem State.scrambleColors_plen (s : State) (n : Nat) : (s.scrambleColors n).plen = s.plen := rfl

@[simp] theorem State.scrambleColors_bpos (s : State) (n : Nat) : (s.scrambleColors n).bpos = s.bpos := rfl

@[simp] theorem State.scrambleColors_tex0 (s : State) (n : Nat) : (s.scrambleColors n).tex0 = s.tex0 := rfl

@[simp] theorem State.scrambleColors_tex1 (s : State) (n : Nat) : (s.scrambleColors n).tex1 = s.tex1 := rfl

@[simp] theorem State.scrambleColors_gf (s : State) (n : Nat) : (s.scrambleColors n).gf = s.gf := rfl

@[simp] theorem State.scrambleColors_byteMem (s : State) (n : Nat) : (s.scrambleColors n).byteMem = s.byteMem := rfl

@[simp] theorem State.scrambleColors_palMem (s : State) (n : Nat) : (s.scrambleColors n).palMem = s.palMem := rfl

@[simp] theorem State.scrambleColors_inbox (s : State) (n : Nat) : (s.scrambleColors n).inbox = s.inbox := rfl

@[simp] theorem State.scrambleColors_readback (s : State) (n : Nat) : (s.scrambleColors n).readback = s.readback := rfl

@[simp] theorem State.scrambleColors_draws (s : State) (n : Nat) : (s.scrambleColors n).draws = s.draws + 1 := rfl

@[simp] theorem State.scrambleColors_memDraw (s : State) (n : Nat) : (s.scrambleColors n).memDraw = s.memDraw := rfl

@[simp] theorem State.scrambleBytes_status (s : State) (n : Nat) : (s.scrambleBytes n).status = s.status := rfl

@[simp] theorem State.scrambleBytes_cause (s : State) (n : Nat) : (s.scrambleBytes n).cause = s.cause := rfl

@[simp] theorem State.scrambleBytes_cfg (s : State) (n : Nat) : (s.scrambleBytes n).cfg = s.cfg := rfl

@[simp] theorem State.scrambleBytes_word (s : State) (n : Nat) : (s.scrambleBytes n).word = s.word := rfl

@[simp] theorem State.scrambleBytes_val (s : State) (n : Nat) : (s.scrambleBytes n).val = s.val := rfl

@[simp] theorem State.scrambleBytes_pixw (s : State) (n : Nat) : (s.scrambleBytes n).pixw = s.pixw := rfl

@[simp] theorem State.scrambleBytes_col (s : State) (n : Nat) : (s.scrambleBytes n).col = s.col := rfl

@[simp] theorem State.scrambleBytes_imgw (s : State) (n : Nat) : (s.scrambleBytes n).imgw = s.imgw := rfl

@[simp] theorem State.scrambleBytes_imgh (s : State) (n : Nat) : (s.scrambleBytes n).imgh = s.imgh := rfl

@[simp] theorem State.scrambleBytes_clbytes (s : State) (n : Nat) : (s.scrambleBytes n).clbytes = s.clbytes := rfl

@[simp] theorem State.scrambleBytes_plen (s : State) (n : Nat) : (s.scrambleBytes n).plen = s.plen := rfl

@[simp] theorem State.scrambleBytes_bpos (s : State) (n : Nat) : (s.scrambleBytes n).bpos = s.bpos := rfl

@[simp] theorem State.scrambleBytes_tex0 (s : State) (n : Nat) : (s.scrambleBytes n).tex0 = s.tex0 := rfl

@[simp] theorem State.scrambleBytes_tex1 (s : State) (n : Nat) : (s.scrambleBytes n).tex1 = s.tex1 := rfl

@[simp] theorem State.scrambleBytes_gf (s : State) (n : Nat) : (s.scrambleBytes n).gf = s.gf := rfl

@[simp] theorem State.scrambleBytes_pixMem (s : State) (n : Nat) : (s.scrambleBytes n).pixMem = s.pixMem := rfl

@[simp] theorem State.scrambleBytes_palMem (s : State) (n : Nat) : (s.scrambleBytes n).palMem = s.palMem := rfl

@[simp] theorem State.scrambleBytes_inbox (s : State) (n : Nat) : (s.scrambleBytes n).inbox = s.inbox := rfl

@[simp] theorem State.scrambleBytes_readback (s : State) (n : Nat) : (s.scrambleBytes n).readback = s.readback := rfl

@[simp] theorem State.scrambleBytes_draws (s : State) (n : Nat) : (s.scrambleBytes n).draws = s.draws + 1 := rfl

@[simp] theorem State.scrambleBytes_memDraw (s : State) (n : Nat) : (s.scrambleBytes n).memDraw = s.memDraw := rfl

@[simp] theorem State.clearRegisters_status (s : State) : (s.clearRegisters).status = 0 := rfl

@[simp] theorem State.clearRegisters_cause (s : State) : (s.clearRegisters).cause = 0 := rfl

@[simp] theorem State.clearRegisters_cfg (s : State) : (s.clearRegisters).cfg = 0 := rfl

@[simp] theorem State.clearRegisters_word (s : State) : (s.clearRegisters).word = 0 := rfl

@[simp] theorem State.clearRegisters_val (s : State) : (s.clearRegisters).val = 0 := rfl

@[simp] theorem State.clearRegisters_pixw (s : State) : (s.clearRegisters).pixw = 0 := rfl

@[simp] theorem State.clearRegisters_col (s : State) : (s.clearRegisters).col = 0 := rfl

@[simp] theorem State.clearRegisters_imgw (s : State) : (s.clearRegisters).imgw = 0 := rfl

@[simp] theorem State.clearRegisters_imgh (s : State) : (s.clearRegisters).imgh = 0 := rfl

@[simp] theorem State.clearRegisters_clbytes (s : State) : (s.clearRegisters).clbytes = 0 := rfl

@[simp] theorem State.clearRegisters_plen (s : State) : (s.clearRegisters).plen = 0 := rfl

@[simp] theorem State.clearRegisters_bpos (s : State) : (s.clearRegisters).bpos = 0 := rfl

@[simp] theorem State.clearRegisters_tex0 (s : State) : (s.clearRegisters).tex0 = 0 := rfl

@[simp] theorem State.clearRegisters_tex1 (s : State) : (s.clearRegisters).tex1 = 0 := rfl

@[simp] theorem State.clearRegisters_gf (s : State) : (s.clearRegisters).gf = GsFields.zero := rfl

@[simp] theorem State.clearRegisters_byteMem (s : State) : (s.clearRegisters).byteMem = s.byteMem := rfl

@[simp] theorem State.clearRegisters_pixMem (s : State) : (s.clearRegisters).pixMem = s.pixMem := rfl

@[simp] theorem State.clearRegisters_palMem (s : State) : (s.clearRegisters).palMem = s.palMem := rfl

@[simp] theorem State.clearRegisters_inbox (s : State) : (s.clearRegisters).inbox = s.inbox := rfl

@[simp] theorem State.clearRegisters_readback (s : State) : (s.clearRegisters).readback = s.readback := rfl

@[simp] theorem State.clearRegisters_draws (s : State) : (s.clearRegisters).draws = s.draws := rfl

@[simp] theorem State.clearRegisters_memDraw (s : State) : (s.clearRegisters).memDraw = s.memDraw := rfl

@[simp] theorem State.hardReset_status (s : State) : (s.hardReset).status = 0 := rfl

@[simp] theorem State.hardReset_cause (s : State) : (s.hardReset).cause = 0 := rfl

@[simp] theorem State.hardReset_cfg (s : State) : (s.hardReset).cfg = 0 := rfl

@[simp] theorem State.hardReset_word (s : State) : (s.hardReset).word = 0 := rfl

@[simp] theorem State.hardReset_val (s : State) : (s.hardReset).val = 0 := rfl

@[simp] theorem State.hardReset_pixw (s : State) : (s.hardReset).pixw = 0 := rfl

@[simp] theorem State.hardReset_col (s : State) : (s.hardReset).col = 0 := rfl

@[simp] theorem State.hardReset_imgw (s : State) : (s.hardReset).imgw = 0 := rfl

@[simp] theorem State.hardReset_imgh (s : State) : (s.hardReset).imgh = 0 := rfl

@[simp] theorem State.hardReset_clbytes (s : State) : (s.hardReset).clbytes = 0 := rfl

@[simp] theorem State.hardReset_plen (s : State) : (s.hardReset).plen = 0 := rfl

@[simp] theorem State.hardReset_bpos (s : State) : (s.hardReset).bpos = 0 := rfl

@[simp] theorem State.hardReset_tex0 (s : State) : (s.hardReset).tex0 = 0 := rfl

@[simp] theorem State.hardReset_tex1 (s : State) : (s.hardReset).tex1 = 0 := rfl

@[simp] theorem State.hardReset_gf (s : State) : (s.hardReset).gf = GsFields.zero := rfl

@[simp] theorem State.hardReset_byteMem (s : State) : (s.hardReset).byteMem = [] := rfl

@[simp] theorem State.hardReset_pixMem (s : State) : (s.hardReset).pixMem = [] := rfl

@[simp] theorem State.hardReset_palMem (s : State) : (s.hardReset).palMem = [] := rfl

@[simp] theorem State.hardReset_inbox (s : State) : (s.hardReset).inbox = s.inbox := rfl

@[simp] theorem State.hardReset_readback (s : State) : (s.hardReset).readback = s.readback := rfl

@[simp] theorem State.hardReset_draws (s : State) : (s.hardReset).draws = s.draws + 1 := rfl

@[simp] theorem State.hardReset_memDraw (s : State) : (s.hardReset).memDraw = s.draws := rfl

@[simp] theorem State.atPos_status (s : State) (p : BitVec 32) : (s.atPos p).status = s.status := rfl

@[simp] theorem State.atPos_cause (s : State) (p : BitVec 32) : (s.atPos p).cause = s.cause := rfl

@[simp] theorem State.atPos_cfg (s : State) (p : BitVec 32) : (s.atPos p).cfg = s.cfg := rfl

@[simp] theorem State.atPos_word (s : State) (p : BitVec 32) : (s.atPos p).word = s.word := rfl

@[simp] theorem State.atPos_val (s : State) (p : BitVec 32) : (s.atPos p).val = s.val := rfl

@[simp] theorem State.atPos_pixw (s : State) (p : BitVec 32) : (s.atPos p).pixw = s.pixw := rfl

@[simp] theorem State.atPos_col (s : State) (p : BitVec 32) : (s.atPos p).col = s.col := rfl

@[simp] theorem State.atPos_imgw (s : State) (p : BitVec 32) : (s.atPos p).imgw = s.imgw := rfl

@[simp] theorem State.atPos_imgh (s : State) (p : BitVec 32) : (s.atPos p).imgh = s.imgh := rfl

@[simp] theorem State.atPos_clbytes (s : State) (p : BitVec 32) : (s.atPos p).clbytes = s.clbytes := rfl

@[simp] theorem State.atPos_plen (s : State) (p : BitVec 32) : (s.atPos p).plen = s.plen := rfl

@[simp] theorem State.atPos_bpos (s : State) (p : BitVec 32) : (s.atPos p).bpos = p := rfl

@[simp] theorem State.atPos_tex0 (s : State) (p : BitVec 32) : (s.atPos p).tex0 = s.tex0 := rfl

@[simp] theorem State.atPos_tex1 (s : State) (p : BitVec 32) : (s.atPos p).tex1 = s.tex1 := rfl

@[simp] theorem State.atPos_gf (s : State) (p : BitVec 32) : (s.atPos p).gf = s.gf := rfl

@[simp] theorem State.atPos_byteMem (s : State) (p : BitVec 32) : (s.atPos p).byteMem = s.byteMem := rfl

@[simp] theorem State.atPos_pixMem (s : State) (p : BitVec 32) : (s.atPos p).pixMem = s.pixMem := rfl

@[simp] theorem State.atPos_palMem (s : State) (p : BitVec 32) : (s.atPos p).palMem = s.palMem := rfl

@[simp] theorem State.atPos_inbox (s : State) (p : BitVec 32) : (s.atPos p).inbox = s.inbox := rfl

@[simp] theorem State.atPos_readback (s : State) (p : BitVec 32) : (s.atPos p).readback = s.readback := rfl

@[simp] theorem State.atPos_draws (s : State) (p : BitVec 32) : (s.atPos p).draws = s.draws := rfl

@[simp] theorem State.atPos_memDraw (s : State) (p : BitVec 32) : (s.atPos p).memDraw = s.memDraw := rfl

end Sys2Proof.Machine
end

