-- ==== Sys2Proof/Laws/Ops.lean ====
section
/-! SUPPORT. What each shared operation does, once: the provers cite these instead of unfolding it. -/

namespace Sys2Proof.Machine

/-! The capacities (R5). -/

theorem Config_byteSize_bounds : 16 ≤ Config.byteSize ∧ Config.byteSize < 2 ^ 32 := by
  have h := Config.byteSizeOver.isLt
  unfold Config.byteSize
  omega

theorem Config_pixCap_bounds : 1 ≤ Config.pixCap ∧ Config.pixCap ≤ 2 ^ 30 := by
  have h := Config.pixCapOver.isLt
  unfold Config.pixCap
  omega

theorem Config_palCap_bounds : 256 ≤ Config.palCap ∧ Config.palCap < 2 ^ 16 := by
  have h := Config.palCapOver.isLt
  unfold Config.palCap
  omega

/-! The bounds checks and the cursor (R44, R48). -/

theorem State.bytesOverrun_eq_false {s : State} {nb : Nat} :
    s.bytesOverrun nb = false ↔ s.bpos.toNat + nb ≤ Config.byteSize := by
  simp [State.bytesOverrun]

theorem pixOverrun_eq_false {n : Nat} : pixOverrun n = false ↔ n ≤ Config.pixCap := by simp [pixOverrun]

theorem palOverrun_eq_false {c : Nat} : palOverrun c = false ↔ c ≤ Config.palCap := by simp [palOverrun]

/-- The new `BPOS` of a command that passes its bounds check is exact (R48). -/
theorem State.posAfter_toNat {s : State} {nb : Nat} (h : s.bpos.toNat + nb ≤ Config.byteSize) :
    (s.posAfter nb).toNat = s.bpos.toNat + nb := by
  have := Config_byteSize_bounds.2
  rw [State.posAfter, BitVec.toNat_ofNat, Nat.mod_eq_of_lt (by omega)]

/-! `STATUS` (R15, R160). -/

@[simp] theorem statusBusy_bit0 (st : BitVec 8) : (statusBusy st).getLsbD 0 = true := by simp [statusBusy]

@[simp] theorem statusBusy_bit1 (st : BitVec 8) : (statusBusy st).getLsbD 1 = st.getLsbD 1 := by simp [statusBusy]

@[simp] theorem statusIdle_bit0 (st : BitVec 8) : (statusIdle st).getLsbD 0 = false := by simp [statusIdle]

@[simp] theorem statusIdle_bit1 (st : BitVec 8) : (statusIdle st).getLsbD 1 = st.getLsbD 1 := by simp [statusIdle]

@[simp] theorem statusFaulted_bit0 (st : BitVec 8) : (statusFaulted st).getLsbD 0 = false := by simp [statusFaulted]

@[simp] theorem statusFaulted_bit1 (st : BitVec 8) : (statusFaulted st).getLsbD 1 = true := by simp [statusFaulted]

@[simp] theorem State.fault_begin (s : State) : s.begin.fault = s.fault := statusBusy_bit1 _

@[simp] theorem State.busy_begin (s : State) : s.begin.busy = true := statusBusy_bit0 _

@[simp] theorem State.fault_complete (s : State) : s.complete.fault = s.fault := statusIdle_bit1 _

@[simp] theorem State.busy_complete (s : State) : s.complete.busy = false := statusIdle_bit0 _

@[simp] theorem State.fault_raise (s : State) (c : Cause) : (s.raise c).fault = true := statusFaulted_bit1 _

@[simp] theorem State.busy_raise (s : State) (c : Cause) : (s.raise c).busy = false := statusFaulted_bit0 _

/-! Memory access (R36, R42). -/

theorem State.memRead_one (s : State) (a : Nat) : s.memRead a 1 = (s.byteAt a).toNat := by
  simp [State.memRead]

theorem State.memRead_lt (s : State) (a n : Nat) : s.memRead a n < 2 ^ (8 * n) := by
  induction n with
  | zero => simp [State.memRead]
  | succ n ih =>
    have hb : (s.byteAt (a + n)).toNat + 1 ≤ 2 ^ 8 := (s.byteAt (a + n)).isLt
    have hp : 2 ^ (8 * (n + 1)) = 2 ^ 8 * 2 ^ (8 * n) := by rw [← Nat.pow_add]; congr 1; omega
    have := Nat.mul_le_mul_right (2 ^ (8 * n)) hb
    rw [State.memRead, hp]
    rw [Nat.add_mul] at this
    omega

/-- Byte `k` of `MemRead(a, n)` is `BYTE[a+k]` (R40). -/
theorem State.memRead_byte (s : State) (a : Nat) {n k : Nat} (hk : k < n) :
    s.memRead a n >>> (8 * k) % 256 = (s.byteAt (a + k)).toNat := by
  induction n with
  | zero => omega
  | succ n ih =>
    have hlt := s.memRead_lt a n
    have hb : (s.byteAt (a + n)).toNat < 256 := (s.byteAt (a + n)).isLt
    rw [State.memRead, Nat.shiftRight_eq_div_pow]
    by_cases h : k = n
    · subst h
      rw [Nat.mul_comm, Nat.add_mul_div_left _ _ (Nat.two_pow_pos _), Nat.div_eq_of_lt hlt, Nat.zero_add,
        Nat.mod_eq_of_lt hb]
    · have hkn : k < n := by omega
      have hp : 2 ^ (8 * n) = 2 ^ (8 * k) * (256 * 2 ^ (8 * (n - k - 1))) := by
        rw [show (256 : Nat) = 2 ^ 8 from rfl, ← Nat.pow_add, ← Nat.pow_add]
        congr 1
        omega
      rw [hp, Nat.mul_left_comm, Nat.add_mul_div_left _ _ (Nat.two_pow_pos _), Nat.mul_left_comm,
        Nat.add_mul_mod_self_left, ← ih hkn, Nat.shiftRight_eq_div_pow]

theorem State.byteAt_congr {s t : State} (hm : t.memDraw = s.memDraw) {a : Nat}
    (h : t.byteMem.read a = s.byteMem.read a) : t.byteAt a = s.byteAt a := by
  simp [State.byteAt, hm, h]

theorem State.pixAt_congr {s t : State} (hm : t.memDraw = s.memDraw) {i : Nat}
    (h : t.pixMem.read i = s.pixMem.read i) : t.pixAt i = s.pixAt i := by
  simp [State.pixAt, hm, h]

theorem State.palAt_congr {s t : State} (hm : t.memDraw = s.memDraw) {i : Nat}
    (h : t.palMem.read i = s.palMem.read i) : t.palAt i = s.palAt i := by
  simp [State.palAt, palEntry, hm, h]

/-! Bit fields (R68, R69). -/

theorem unpackMask_eq {cnt : Nat} (h : 1 ≤ cnt) : unpackMask cnt = 2 ^ cnt - 1 := by
  obtain ⟨k, rfl⟩ := Nat.exists_eq_add_of_le' h
  simp [unpackMask, Nat.shiftLeft_eq, Nat.pow_succ, Nat.mul_comm]

theorem packW_toNat {W : Nat} (hW : W ≤ 64) (word value : BitVec 64) (off : Nat) :
    (packW W word value off).toNat =
      ((word.toNat % 2 ^ W) ||| (value.toNat % 2 ^ W) <<< off) % 2 ^ W := by
  have hlt : ((word.toNat % 2 ^ W) ||| (value.toNat % 2 ^ W) <<< off % 2 ^ W) < 2 ^ W :=
    Nat.or_lt_two_pow (Nat.mod_lt _ (Nat.two_pow_pos W)) (Nat.mod_lt _ (Nat.two_pow_pos W))
  have h64 : 2 ^ W ≤ 2 ^ 64 := Nat.pow_le_pow_right (by decide) hW
  simp only [packW, BitVec.toNat_setWidth, BitVec.toNat_or, BitVec.toNat_shiftLeft]
  rw [Nat.mod_eq_of_lt (Nat.lt_of_lt_of_le hlt h64), Nat.or_mod_two_pow, Nat.mod_mod]

theorem unpackW_toNat {W : Nat} (hW : W ≤ 64) (word : BitVec 64) {cnt : Nat} (hc : 1 ≤ cnt) (off : Nat) :
    (unpackW W word cnt off).toNat = (word.toNat % 2 ^ W) >>> off % 2 ^ cnt := by
  have hlt : (word.toNat % 2 ^ W) >>> off < 2 ^ 64 := by
    have h1 : word.toNat % 2 ^ W < 2 ^ W := Nat.mod_lt _ (Nat.two_pow_pos W)
    have h2 : (word.toNat % 2 ^ W) >>> off ≤ word.toNat % 2 ^ W := Nat.shiftRight_le _ _
    have h64 : 2 ^ W ≤ 2 ^ 64 := Nat.pow_le_pow_right (by decide) hW
    omega
  rw [unpackW, unpackMask_eq hc, Nat.and_two_pow_sub_one_eq_mod, BitVec.toNat_ofNat, BitVec.toNat_setWidth,
    Nat.mod_eq_of_lt (Nat.lt_of_le_of_lt (Nat.mod_le _ _) hlt)]

/-! Colours (R20, R85, R86). -/

theorem toNat_append_byte {n : Nat} (x : BitVec n) (y : Byte) : (x ++ y).toNat = x.toNat * 2 ^ 8 + y.toNat := by
  rw [BitVec.toNat_append, ← Nat.shiftLeft_add_eq_or_of_lt y.isLt, Nat.shiftLeft_eq]

theorem rgba_toNat (r g b a : Byte) :
    (rgba r g b a).toNat = ((a.toNat * 2 ^ 8 + b.toNat) * 2 ^ 8 + g.toNat) * 2 ^ 8 + r.toNat := by
  rw [← toNat_append_byte, ← toNat_append_byte, ← toNat_append_byte]
  rfl

theorem colorR_toNat (c : Color) : (colorR c).toNat = c.toNat % 2 ^ 8 := by simp [colorR, BitVec.extractLsb'_toNat]
theorem colorG_toNat (c : Color) : (colorG c).toNat = c.toNat / 2 ^ 8 % 2 ^ 8 := by
  simp [colorG, BitVec.extractLsb'_toNat, Nat.shiftRight_eq_div_pow]
theorem colorB_toNat (c : Color) : (colorB c).toNat = c.toNat / 2 ^ 16 % 2 ^ 8 := by
  simp [colorB, BitVec.extractLsb'_toNat, Nat.shiftRight_eq_div_pow]
theorem colorA_toNat (c : Color) : (colorA c).toNat = c.toNat / 2 ^ 24 % 2 ^ 8 := by
  simp [colorA, BitVec.extractLsb'_toNat, Nat.shiftRight_eq_div_pow]

@[simp] theorem colorR_rgba (r g b a : Byte) : colorR (rgba r g b a) = r := by
  apply BitVec.eq_of_toNat_eq; rw [colorR_toNat, rgba_toNat]; omega
@[simp] theorem colorG_rgba (r g b a : Byte) : colorG (rgba r g b a) = g := by
  apply BitVec.eq_of_toNat_eq; rw [colorG_toNat, rgba_toNat]; omega
@[simp] theorem colorB_rgba (r g b a : Byte) : colorB (rgba r g b a) = b := by
  apply BitVec.eq_of_toNat_eq; rw [colorB_toNat, rgba_toNat]; omega
@[simp] theorem colorA_rgba (r g b a : Byte) : colorA (rgba r g b a) = a := by
  apply BitVec.eq_of_toNat_eq; rw [colorA_toNat, rgba_toNat]; omega

theorem rgba_channels (c : Color) : rgba (colorR c) (colorG c) (colorB c) (colorA c) = c := by
  apply BitVec.eq_of_toNat_eq
  rw [rgba_toNat, colorR_toNat, colorG_toNat, colorB_toNat, colorA_toNat]; omega

theorem color_ext {c d : Color} (hr : colorR c = colorR d) (hg : colorG c = colorG d) (hb : colorB c = colorB d)
    (ha : colorA c = colorA d) : c = d := by
  rw [← rgba_channels c, ← rgba_channels d, hr, hg, hb, ha]

theorem channel8_toNat (f : BitVec 5) : (channel8 f).toNat = f.toNat * 8 := by
  rw [channel8, BitVec.toNat_ofNat]; have := f.isLt; omega

theorem decode16_R (w : BitVec 16) : (colorR (decode16 w)).toNat = w.toNat % 32 * 8 := by
  rw [decode16, colorR_rgba, channel8_toNat, BitVec.extractLsb'_toNat, Nat.shiftRight_zero]
theorem decode16_G (w : BitVec 16) : (colorG (decode16 w)).toNat = w.toNat / 32 % 32 * 8 := by
  rw [decode16, colorG_rgba, channel8_toNat, BitVec.extractLsb'_toNat, Nat.shiftRight_eq_div_pow]
theorem decode16_B (w : BitVec 16) : (colorB (decode16 w)).toNat = w.toNat / 1024 % 32 * 8 := by
  rw [decode16, colorB_rgba, channel8_toNat, BitVec.extractLsb'_toNat, Nat.shiftRight_eq_div_pow]
theorem decode16_A (w : BitVec 16) : (colorA (decode16 w)).toNat = w.toNat / 32768 * 255 := by
  have h := w.isLt
  have hb : w.getLsbD 15 = decide (w.toNat / 32768 = 1) := by
    rw [BitVec.getLsbD, Nat.testBit_eq_decide_div_mod_eq]
    congr 1
    simp only [eq_iff_iff]
    omega
  rw [decode16, colorA_rgba, hb]
  by_cases h1 : w.toNat / 32768 = 1
  · simp [h1]
  · have : w.toNat / 32768 = 0 := by omega
    simp [this]

theorem encode16_toNat (c : Color) :
    (encode16 c).toNat = (colorA c).toNat / 255 * 32768 + (colorB c).toNat / 8 * 1024 + (colorG c).toNat / 8 * 32 +
      (colorR c).toNat / 8 := by
  have hr : (colorR c).toNat / 8 < 2 ^ 5 := by have := (colorR c).isLt; omega
  have hg : (colorG c).toNat / 8 < 2 ^ 5 := by have := (colorG c).isLt; omega
  have hb : (colorB c).toNat / 8 < 2 ^ 5 := by have := (colorB c).isLt; omega
  have ha : (colorA c).toNat / 255 < 2 := by have := (colorA c).isLt; omega
  rw [encode16, BitVec.toNat_ofNat]
  generalize (colorR c).toNat / 8 = r at *
  generalize (colorG c).toNat / 8 = g at *
  generalize (colorB c).toNat / 8 = b at *
  generalize (colorA c).toNat / 255 = a at *
  have e1 : a <<< 15 ||| b <<< 10 = (a <<< 5 ||| b) <<< 10 := by
    rw [Nat.shiftLeft_or_distrib, ← Nat.shiftLeft_add]
  have e2 : (a <<< 5 ||| b) <<< 10 ||| g <<< 5 = ((a <<< 5 ||| b) <<< 5 ||| g) <<< 5 := by
    rw [Nat.shiftLeft_or_distrib (i := 5), ← Nat.shiftLeft_add]
  rw [e1, e2, ← Nat.shiftLeft_add_eq_or_of_lt hr, ← Nat.shiftLeft_add_eq_or_of_lt hg,
    ← Nat.shiftLeft_add_eq_or_of_lt hb, Nat.shiftLeft_eq, Nat.shiftLeft_eq, Nat.shiftLeft_eq]
  omega

/-! Colours in BYTE (R94 to R96, R101 to R103). -/

/-- The bytes a colour takes in a true-colour type, as one little-endian value. -/
theorem storeColor_eq_storeLE {t : ColorType} (ht : t.isTrue = true) (addr : Nat) (c : Color) (m : Memory Byte) :
    storeColor t addr c m = m.storeLE addr t.bpc (if t = .color16 then (encode16 c).toNat else c.toNat) := by
  cases t with
  | color16 => rfl
  | color24 =>
    have hr : BitVec.ofNat 8 (colorR c).toNat = BitVec.ofNat 8 c.toNat := by
      apply BitVec.eq_of_toNat_eq
      simp [colorR_toNat]
    have hg : BitVec.ofNat 8 (colorG c).toNat = BitVec.ofNat 8 (c.toNat >>> 8) := by
      apply BitVec.eq_of_toNat_eq
      simp [colorG_toNat, Nat.shiftRight_eq_div_pow]
    have hb : BitVec.ofNat 8 (colorB c).toNat = BitVec.ofNat 8 (c.toNat >>> 16) := by
      apply BitVec.eq_of_toNat_eq
      simp [colorB_toNat, Nat.shiftRight_eq_div_pow]
    simp only [storeColor, Memory.storeLE, forUpTo, ColorType.bpc, Nat.mul_zero, Nat.mul_one, Nat.add_zero,
      Nat.shiftRight_zero, hr, hg, hb, reduceCtorEq, if_false]
  | color32 => rfl
  | none => simp [ColorType.isTrue] at ht
  | indexColor4 => simp [ColorType.isTrue] at ht
  | indexColor8 => simp [ColorType.isTrue] at ht
  | reserved => simp [ColorType.isTrue] at ht

theorem ColorType.bpc_pos {t : ColorType} (ht : t.isTrue = true) : 0 < t.bpc := by
  cases t <;> simp_all [ColorType.isTrue, ColorType.bpc]

/-- The bytes of a true-colour buffer (R92). -/
theorem pixelBytes_of_isTrue {t : ColorType} (ht : t.isTrue = true) (n : Nat) : pixelBytes t n = t.bpc * n := by
  cases t <;> simp_all [ColorType.isTrue, ColorType.bpc, pixelBytes]

/-- What storing `n` colours one after another does to every byte (R47, R101 to R103, R120 to R122). -/
theorem read_forUpTo_storeColor {t : ColorType} (ht : t.isTrue = true) (m : Memory Byte) (base n a : Nat)
    (c : Nat → Color) :
    (forUpTo n (fun i m => storeColor t (base + t.bpc * i) (c i) m) m).read a =
      if base ≤ a ∧ a < base + t.bpc * n then
        some (BitVec.ofNat 8
          ((if t = .color16 then (encode16 (c ((a - base) / t.bpc))).toNat else (c ((a - base) / t.bpc)).toNat) >>>
            (8 * ((a - base) % t.bpc))))
      else m.read a := by
  simp only [storeColor_eq_storeLE ht]
  exact read_forUpTo_storeLE m base t.bpc n a (fun i => if t = .color16 then (encode16 (c i)).toNat else (c i).toNat)
    (ColorType.bpc_pos ht)

/-! The two words in BYTE (R134, R138). -/

theorem ofNat_shiftRight_eq_extract (w : BitVec 64) (k : Nat) : BitVec.ofNat 8 (w.toNat >>> k) = w.extractLsb' k 8 := by
  apply BitVec.eq_of_toNat_eq
  rw [BitVec.extractLsb'_toNat, BitVec.toNat_ofNat]

/-- What storing the two words does to every byte (R138). -/
theorem read_storeWords (m : Memory Byte) (addr : Nat) (w0 w1 : BitVec 64) (a : Nat) :
    (storeWords m addr w0 w1).read a =
      if addr + 8 ≤ a ∧ a < addr + 16 then some (w1.extractLsb' (8 * (a - (addr + 8))) 8)
      else if addr ≤ a ∧ a < addr + 8 then some (w0.extractLsb' (8 * (a - addr)) 8)
      else m.read a := by
  rw [storeWords, Memory.read_storeLE, Memory.read_storeLE, ofNat_shiftRight_eq_extract, ofNat_shiftRight_eq_extract]

theorem wf_storeWords {m : Memory Byte} (h : m.wf) (addr : Nat) (w0 w1 : BitVec 64) : (storeWords m addr w0 w1).wf := by
  unfold storeWords
  exact Memory.wf_storeLE (Memory.wf_storeLE h _ _ _) _ _ _

theorem within_storeWords {m : Memory Byte} {cap : Nat} (h : m.within cap) {addr : Nat} (ha : addr + 16 ≤ cap)
    (w0 w1 : BitVec 64) : (storeWords m addr w0 w1).within cap := by
  unfold storeWords
  exact Memory.within_storeLE (Memory.within_storeLE h (by omega) _) (by omega) _

/-- The word whose bytes lie at `addr` is what an 8-byte read gives (R38, R42). -/
theorem State.memRead_word (s : State) (addr : Nat) (w : BitVec 64)
    (h : ∀ k, k < 8 → s.byteAt (addr + k) = w.extractLsb' (8 * k) 8) : BitVec.ofNat 64 (s.memRead addr 8) = w := by
  have key : ∀ n, n ≤ 8 → s.memRead addr n = w.toNat % 2 ^ (8 * n) := by
    intro n hn
    induction n with
    | zero => simp [State.memRead, Nat.mod_one]
    | succ n ih =>
      rw [State.memRead, ih (by omega), h n (by omega), BitVec.extractLsb'_toNat, Nat.shiftRight_eq_div_pow, Nat.mul_succ,
        Nat.pow_add, Nat.mod_mul, Nat.mul_comm (2 ^ (8 * n))]
  apply BitVec.eq_of_toNat_eq
  rw [key 8 (by decide), BitVec.toNat_ofNat, Nat.mod_mod]
  exact Nat.mod_eq_of_lt w.isLt

/-! The loops keep the canonical form and the capacities (R37). -/

theorem wf_forUpTo_storeColor {m : Memory Byte} (h : m.wf) {t : ColorType} (ht : t.isTrue = true) (base n : Nat)
    (c : Nat → Color) : (forUpTo n (fun i m => storeColor t (base + t.bpc * i) (c i) m) m).wf :=
  forUpTo_induct Memory.wf h fun _ _ _ hy => by
    rw [storeColor_eq_storeLE ht]
    exact Memory.wf_storeLE hy _ _ _

theorem within_forUpTo_storeColor {m : Memory Byte} {cap : Nat} (h : m.within cap) {t : ColorType}
    (ht : t.isTrue = true) {base n : Nat} (hb : base + t.bpc * n ≤ cap) (c : Nat → Color) :
    (forUpTo n (fun i m => storeColor t (base + t.bpc * i) (c i) m) m).within cap :=
  forUpTo_induct (Memory.within · cap) h fun i _ hi hy => by
    have hm := Nat.mul_le_mul_left t.bpc (show i + 1 ≤ n from hi)
    rw [Nat.mul_add] at hm
    rw [storeColor_eq_storeLE ht]
    exact Memory.within_storeLE hy (by omega) _

/-- The memory of the reset state is in canonical form. -/
theorem State.reset_memories_wf : State.reset.byteMem.wf ∧ State.reset.pixMem.wf ∧ State.reset.palMem.wf :=
  ⟨List.Pairwise.nil, List.Pairwise.nil, List.Pairwise.nil⟩

end Sys2Proof.Machine
end

