-- ==== Sys2Proof/Laws/PerInstr.lean ====
section
/-! SUPPORT. Per-instruction laws. Family `TableRow`: the word of a well-formed instruction selects its own row of
spec/opcode_table.json, `cmd & mask = match` (30_encoding.md, opening; R66). -/

namespace Sys2Proof.Laws

/-- The row's mask and match, from spec/opcode_table.json. -/
def tableRow : Instr → CmdWord × CmdWord
  | .pack8 _ => (0xFFFFF8FF, 0x00000010)
  | .pack16 _ => (0xFFFFF0FF, 0x00000011)
  | .pack32 _ => (0xFFFFE0FF, 0x00000012)
  | .pack64 _ => (0xFFFFC0FF, 0x00000013)
  | .unpk8 _ _ => (0xFF00F8FF, 0x00000014)
  | .unpk16 _ _ => (0xFF00F0FF, 0x00000015)
  | .unpk32 _ _ => (0xFF00E0FF, 0x00000016)
  | .unpk64 _ _ => (0xFF00C0FF, 0x00000017)
  | .dec16 => (0xFFFFFFFF, 0x00000020)
  | .enc16 => (0xFFFFFFFF, 0x00000021)
  | .pxdec => (0xFFFFFFFF, 0x00000030)
  | .pxenct => (0xFFFFFFFF, 0x00000031)
  | .pxenci => (0xFFFFFFFF, 0x00000032)
  | .pxres => (0xFFFFFFFF, 0x00000033)
  | .cldec => (0xFFFFFFFF, 0x00000038)
  | .clenc => (0xFFFFFFFF, 0x00000039)
  | .clswz => (0xFFFFFFFF, 0x00000040)
  | .clcmp => (0xFFFFFFFF, 0x00000041)
  | .gsdec => (0xFFFFFFFF, 0x00000050)
  | .gsenc => (0xFFFFFFFF, 0x00000051)
  | .rst => (0xFFFFFFFF, 0x000000FF)

/-- The word of `i`, when `i` is well-formed, selects the row of `i`. -/
def TableRow.Statement (i : Instr) : Prop :=
  i.wellFormed = true → encode i &&& (tableRow i).1 = (tableRow i).2

/-- A mask and a word taken apart into their four bytes. -/
theorem encodeFields_and (op a b m0 m1 m2 m3 : Byte) :
    encodeFields op a b &&& (m3 ++ m2 ++ m1 ++ m0) = encodeFields (op &&& m0) (a &&& m1) (b &&& m2) := by
  have h : (0#8 : Byte) &&& m3 = 0#8 := by simp
  unfold encodeFields
  refine (BitVec.and_append (x₁ := 0#8 ++ b ++ a) (y₁ := op) (x₂ := m3 ++ m2 ++ m1) (y₂ := m0)).trans ?_
  rw [BitVec.and_append, BitVec.and_append, h]

theorem and_eq_zero_of_lt {k : Nat} (hk : k ≤ 8) (a : Byte) (h : a.toNat < 2 ^ k) :
    a &&& BitVec.ofNat 8 (256 - 2 ^ k) = 0#8 := by
  interval_cases k <;> revert h <;> revert a <;> decide

theorem packRow {W k : Nat} (hW : W = 2 ^ k) (hk : k ≤ 8) (op off : Byte) (h : packOperandOk W off = true) :
    encodeFields op off 0 &&& (0xFF#8 ++ 0xFF#8 ++ BitVec.ofNat 8 (256 - 2 ^ k) ++ 0xFF#8) = encodeFields op 0 0 := by
  have h1 : off.toNat < 2 ^ k := by simpa [packOperandOk, hW] using h
  have hop : op &&& 0xFF#8 = op := BitVec.and_allOnes
  rw [encodeFields_and, and_eq_zero_of_lt hk off h1, hop]
  simp

theorem unpkRow {W k : Nat} (hW : W = 2 ^ k) (hk : k ≤ 8) (op cnt off : Byte)
    (h : unpkOperandsOk W cnt off = true) :
    encodeFields op off cnt &&& (0xFF#8 ++ 0x00#8 ++ BitVec.ofNat 8 (256 - 2 ^ k) ++ 0xFF#8) = encodeFields op 0 0 := by
  have h1 : off.toNat < 2 ^ k := by
    simp only [unpkOperandsOk, Bool.and_eq_true, decide_eq_true_eq] at h
    omega
  have hop : op &&& 0xFF#8 = op := BitVec.and_allOnes
  rw [encodeFields_and, and_eq_zero_of_lt hk off h1, hop]
  simp

theorem TableRow.pack8 (off : Byte) : TableRow.Statement (.pack8 off) :=
  fun h => packRow (k := 3) rfl (by decide) 0x10 off h

theorem TableRow.pack16 (off : Byte) : TableRow.Statement (.pack16 off) :=
  fun h => packRow (k := 4) rfl (by decide) 0x11 off h

theorem TableRow.pack32 (off : Byte) : TableRow.Statement (.pack32 off) :=
  fun h => packRow (k := 5) rfl (by decide) 0x12 off h

theorem TableRow.pack64 (off : Byte) : TableRow.Statement (.pack64 off) :=
  fun h => packRow (k := 6) rfl (by decide) 0x13 off h

theorem TableRow.unpk8 (cnt off : Byte) : TableRow.Statement (.unpk8 cnt off) :=
  fun h => unpkRow (k := 3) rfl (by decide) 0x14 cnt off h

theorem TableRow.unpk16 (cnt off : Byte) : TableRow.Statement (.unpk16 cnt off) :=
  fun h => unpkRow (k := 4) rfl (by decide) 0x15 cnt off h

theorem TableRow.unpk32 (cnt off : Byte) : TableRow.Statement (.unpk32 cnt off) :=
  fun h => unpkRow (k := 5) rfl (by decide) 0x16 cnt off h

theorem TableRow.unpk64 (cnt off : Byte) : TableRow.Statement (.unpk64 cnt off) :=
  fun h => unpkRow (k := 6) rfl (by decide) 0x17 cnt off h

theorem TableRow.dec16 : TableRow.Statement .dec16 := fun _ => rfl

theorem TableRow.enc16 : TableRow.Statement .enc16 := fun _ => rfl

theorem TableRow.pxdec : TableRow.Statement .pxdec := fun _ => rfl

theorem TableRow.pxenct : TableRow.Statement .pxenct := fun _ => rfl

theorem TableRow.pxenci : TableRow.Statement .pxenci := fun _ => rfl

theorem TableRow.pxres : TableRow.Statement .pxres := fun _ => rfl

theorem TableRow.cldec : TableRow.Statement .cldec := fun _ => rfl

theorem TableRow.clenc : TableRow.Statement .clenc := fun _ => rfl

theorem TableRow.clswz : TableRow.Statement .clswz := fun _ => rfl

theorem TableRow.clcmp : TableRow.Statement .clcmp := fun _ => rfl

theorem TableRow.gsdec : TableRow.Statement .gsdec := fun _ => rfl

theorem TableRow.gsenc : TableRow.Statement .gsenc := fun _ => rfl

theorem TableRow.rst : TableRow.Statement .rst := fun _ => rfl

end Sys2Proof.Laws
end

