-- ==== Sys2Proof/Tests/Slice0.lean ====
section
/-! SUPPORT. The model's own tests: ill-formed terms, words written out from the spec's encoding, the vectors of
95_test_vectors.md on one step each, and for each obligation with hypotheses a witness that meets them. Vectors that need
more cells than the least capacities of R5 (16 bytes, one pixel, 256 colours) are run on the part of the command that
needs no capacity. -/

namespace Sys2Proof.Tests

open Sys2Proof Sys2Proof.Machine

/-! Helpers. -/

/-- The outcome is a next state of which `p` holds. -/
def ends (o : Host.Outcome State Fault Refusal) (p : State → Bool) : Bool :=
  match o with
  | .next t => p t
  | .fault _ => false
  | .refused _ => false

/-- The reset state with the bytes `bs` in BYTE from address 0 up. -/
def withBytes (bs : List Byte) : State := { State.reset with byteMem := bs.zipIdx.map (fun x => (x.2, x.1)) }

/-- A palette whose entry `i` holds the colour value `i`, for `i` below `n` (95_test_vectors.md 2.5). -/
def countingPalette (n : Nat) : Memory Color := (List.range n).map (fun i => (i, BitVec.ofNat 32 i))

/-- The image configuration of a pixel command: `CFG`, `IMGW`, `IMGH`. -/
def image (s : State) (cfg w h : BitVec 16) : State := { s with cfg := cfg, imgw := w, imgh := h }

/-- The reset state with one pixel of that colour and index, and `IMGW` = `IMGH` = 1. -/
def onePixel (cfg : BitVec 16) (color : Color) (index : BitVec 32) : State :=
  { image State.reset cfg 1 1 with pixMem := [(0, ⟨color, index⟩)] }

/-- The reset state with a fault of that cause reported. -/
def faulted (cause : BitVec 8) : State := { State.reset with status := 0x02, cause := cause }

/-- `s` about to take the host action `a`. -/
def about (s : State) (a : HostAction) : State := { s with inbox := [a] }

/-! The bounds R5 sets on the capacities. -/

theorem least_byteSize : 16 ≤ Config.byteSize := by unfold Config.byteSize; omega

theorem byteSize_lt : Config.byteSize < 2 ^ 32 := Nat.add_lt_add_right Config.byteSizeOver.isLt 16

theorem pixCap_le : Config.pixCap ≤ 2 ^ 30 := Nat.succ_le_of_lt Config.pixCapOver.isLt

theorem palCap_lt : Config.palCap < 2 ^ 16 := Nat.add_lt_add_right Config.palCapOver.isLt 256

/-! WellFormed refuses what R63 and R64 refuse. -/

theorem test_wf_pack8_off_8 : (Instr.pack8 8).wellFormed = false := by decide
theorem test_wf_pack16_off_16 : (Instr.pack16 16).wellFormed = false := by decide
theorem test_wf_pack32_off_32 : (Instr.pack32 32).wellFormed = false := by decide
theorem test_wf_pack64_off_64 : (Instr.pack64 64).wellFormed = false := by decide
theorem test_wf_unpk8_off_8 : (Instr.unpk8 1 8).wellFormed = false := by decide
theorem test_wf_unpk8_cnt_9 : (Instr.unpk8 9 0).wellFormed = false := by decide
theorem test_wf_unpk16_off_16 : (Instr.unpk16 1 16).wellFormed = false := by decide
theorem test_wf_unpk16_cnt_0 : (Instr.unpk16 0 0).wellFormed = false := by decide
theorem test_wf_unpk32_off_32 : (Instr.unpk32 1 32).wellFormed = false := by decide
theorem test_wf_unpk32_cnt_33 : (Instr.unpk32 33 0).wellFormed = false := by decide
theorem test_wf_unpk64_off_64 : (Instr.unpk64 1 64).wellFormed = false := by decide
theorem test_wf_unpk64_cnt_0 : (Instr.unpk64 0 0).wellFormed = false := by decide
theorem test_wf_largest_operands : (Instr.unpk64 64 63).wellFormed = true := by decide

/-! Decoding: words written out from `OP` 7:0, `A` 15:8, `B` 23:16, `Z` 31:24 and the opcode map (R57, R59), and the words
95_test_vectors.md names. -/

theorem test_decode_pack8 : decode 0x00000710 = .ok (.pack8 7) := by decide
theorem test_decode_pack16 : decode 0x00000811 = .ok (.pack16 8) := by decide
theorem test_decode_pack32 : decode 0x00001D12 = .ok (.pack32 29) := by decide
theorem test_decode_pack64 : decode 0x00002513 = .ok (.pack64 37) := by decide
theorem test_decode_unpk8 : decode 0x00030214 = .ok (.unpk8 3 2) := by decide
theorem test_decode_unpk16 : decode 0x00100015 = .ok (.unpk16 16 0) := by decide
theorem test_decode_unpk32 : decode 0x00041C16 = .ok (.unpk32 4 28) := by decide
theorem test_decode_unpk64 : decode 0x000E2517 = .ok (.unpk64 14 37) := by decide
theorem test_decode_dec16 : decode 0x00000020 = .ok .dec16 := by decide
theorem test_decode_enc16 : decode 0x00000021 = .ok .enc16 := by decide
theorem test_decode_pxdec : decode 0x00000030 = .ok .pxdec := by decide
theorem test_decode_pxenct : decode 0x00000031 = .ok .pxenct := by decide
theorem test_decode_pxenci : decode 0x00000032 = .ok .pxenci := by decide
theorem test_decode_pxres : decode 0x00000033 = .ok .pxres := by decide
theorem test_decode_cldec : decode 0x00000038 = .ok .cldec := by decide
theorem test_decode_clenc : decode 0x00000039 = .ok .clenc := by decide
theorem test_decode_clswz : decode 0x00000040 = .ok .clswz := by decide
theorem test_decode_clcmp : decode 0x00000041 = .ok .clcmp := by decide
theorem test_decode_gsdec : decode 0x00000050 = .ok .gsdec := by decide
theorem test_decode_gsenc : decode 0x00000051 = .ok .gsenc := by decide
theorem test_decode_rst : decode 0x000000FF = .ok .rst := by decide

/-- V7.1, V7.12. -/
theorem test_decode_unassigned_opcodes :
    decode 0x00000000 = .error .unassignedOpcode ∧ decode 0x00000034 = .error .unassignedOpcode ∧
    decode 0x00000018 = .error .unassignedOpcode ∧ decode 0x00000052 = .error .unassignedOpcode ∧
    decode 0x000000FE = .error .unassignedOpcode := by decide

/-- V7.2, V7.3. -/
theorem test_decode_nonzero_z :
    decode 0xFFFFFFFF = .error .nonZeroZ ∧ decode 0x01000020 = .error .nonZeroZ := by decide

/-- V7.4, V7.7. -/
theorem test_decode_unused_immediates :
    decode 0x00000120 = .error .unusedImmediate ∧ decode 0x00010013 = .error .unusedImmediate := by decide

/-- V7.5, V7.6, V7.11. -/
theorem test_decode_offset_range :
    decode 0x00000810 = .error .offsetRange ∧ decode 0x00004013 = .error .offsetRange ∧
    decode 0x00010814 = .error .offsetRange := by decide

/-- V7.8, V7.9, V7.10. -/
theorem test_decode_count_range :
    decode 0x00000017 = .error .countRange ∧ decode 0x00410017 = .error .countRange ∧
    decode 0x00090014 = .error .countRange ∧ decode 0x00080714 = .ok (.unpk8 8 7) := by decide

theorem test_decodeTableWord_pack64 : decodeTableWord 32 0x00002513 = some (.pack64 37) := by decide

/-! One step or one command per vector. -/

/-- V1.6. -/
theorem test_pack8_keeps_set_bits : packW 8 0x0F 0x1A5 4 = 0x5F := by decide
/-- V1.7. -/
theorem test_pack8_zero_extends :
    ends (exec (.pack8 0) { State.reset with word := 0xFFFFFFFFFFFFFF00 }) (fun t => t.word == 0) = true := by decide
/-- V1.8. -/
theorem test_pack16 :
    ends (exec (.pack16 8) { State.reset with word := 0xFF, val := 0x12 }) (fun t => t.word == 0x12FF) = true := by decide
/-- V1.9. -/
theorem test_pack32 :
    ends (exec (.pack32 29) { State.reset with word := 0x80000000, val := 7 }) (fun t => t.word == 0xE0000000) = true := by
  decide
/-- V1.3. -/
theorem test_pack64_loses_high_bits :
    ends (exec (.pack64 63) { State.reset with val := 3 }) (fun t => t.word == 0x8000000000000000) = true := by decide
/-- V1.14. -/
theorem test_unpk8 :
    ends (exec (.unpk8 3 2) { State.reset with word := 0xAB }) (fun t => t.val == 2) = true := by decide
/-- V1.16. -/
theorem test_unpk8_ignores_high_bits :
    ends (exec (.unpk8 4 4) { State.reset with word := 0x1234 }) (fun t => t.val == 3) = true := by decide
/-- V1.17. -/
theorem test_unpk16 :
    ends (exec (.unpk16 5 5) { State.reset with word := 0xBEEF }) (fun t => t.val == 0x17) = true := by decide
/-- V1.19. -/
theorem test_unpk32 :
    ends (exec (.unpk32 4 28) { State.reset with word := 0xDEADBEEF }) (fun t => t.val == 0xD) = true := by decide
/-- V1.10. -/
theorem test_unpk64_whole_word :
    ends (exec (.unpk64 64 0) { State.reset with word := 0xFEDCBA9876543210 })
      (fun t => t.val == 0xFEDCBA9876543210 && t.word == 0xFEDCBA9876543210) = true := by decide +kernel
/-- V1.13. -/
theorem test_unpk64_past_the_top :
    ends (exec (.unpk64 8 60) { State.reset with word := 0xFEDCBA9876543210 }) (fun t => t.val == 0xF) = true := by
  decide +kernel

/-- V2.6. -/
theorem test_dec16 :
    ends (exec .dec16 { State.reset with pixw := 0xABCD }) (fun t => t.col == 0xFF50F068 && t.pixw == 0xABCD) = true := by
  decide
/-- V2.2. -/
theorem test_dec16_white : decode16 0xFFFF = 0xFFF8F8F8 := by decide
/-- V2.8. -/
theorem test_enc16_truncates :
    ends (exec .enc16 { State.reset with col := 0x80C89664 }) (fun t => t.pixw == 0x664C) = true := by decide
/-- V2.9. -/
theorem test_enc16_alpha_254 : encode16 0xFEFFFFFF = 0x7FFF := by decide

/-- V3.3. -/
theorem test_pxdec_color32 :
    ends (exec .pxdec (image (withBytes [0x12, 0x34, 0x56, 0x78]) 3 1 1))
      (fun t => t.pixMem == [(0, ⟨0x78563412, 0xFFFFFFFF⟩)] && t.bpos == 4) = true := by decide +kernel
/-- V3.10. -/
theorem test_pxenct_color16 :
    ends (exec .pxenct (onePixel 1 0x80C89664 0)) (fun t => t.byteMem == [(0, 0x4C), (1, 0x66)] && t.bpos == 2) = true := by
  decide +kernel
/-- V3.11. -/
theorem test_pxenct_color24 :
    ends (exec .pxenct (onePixel 2 0x78563412 0))
      (fun t => t.byteMem == [(0, 0x12), (1, 0x34), (2, 0x56)] && t.bpos == 3) = true := by decide +kernel
/-- V3.15. -/
theorem test_pxenci_index8 :
    ends (exec .pxenci (onePixel 5 0 200)) (fun t => t.byteMem == [(0, 0xC8)] && t.bpos == 1) = true := by decide +kernel
/-- V3.24. -/
theorem test_pxres :
    ends (exec .pxres { onePixel 4 0 3 with plen := 16, palMem := [(3, 0x11223344)] })
      (fun t => t.pixMem == [(0, ⟨0x11223344, 3⟩)] && t.bpos == 0) = true := by decide +kernel
/-- V3.25. -/
theorem test_pxres_index_past_the_palette :
    ends (exec .pxres { onePixel 5 0 16 with plen := 16 })
      (fun t => t.status == 2 && t.cause == 6 && (t.pixAt 0).index == 16) = true := by decide +kernel
/-- V3.7: three 4-bit pixels, the nibble past the last one ignored. -/
theorem test_nibble_order :
    (withBytes [0x73, 0xFA]).indexInBytes .indexColor4 0 = 3 ∧ (withBytes [0x73, 0xFA]).indexInBytes .indexColor4 1 = 7 ∧
    (withBytes [0x73, 0xFA]).indexInBytes .indexColor4 2 = 10 := by decide
/-- V3.13. -/
theorem test_nibble_packing :
    ({ State.reset with pixMem := [(0, ⟨0, 3⟩), (1, ⟨0, 7⟩)] } : State).indexByte .indexColor4 2 0 = 0x73 := by decide

/-- V4.1. -/
theorem test_cldec_color32 :
    ends (exec .cldec { withBytes [1, 2, 3, 4, 5, 6, 7, 8] with cfg := 0x18, clbytes := 8 })
      (fun t => t.palMem == [(0, 0x04030201), (1, 0x08070605)] && t.plen == 2 && t.bpos == 8) = true := by decide +kernel
/-- V4.4. -/
theorem test_cldec_remainder_only :
    ends (exec .cldec { withBytes [1, 2, 3] with cfg := 0x18, clbytes := 3 })
      (fun t => t.palMem == [] && t.plen == 0 && t.bpos == 0 && t.status == 0) = true := by decide +kernel
/-- V4.7. -/
theorem test_clenc_color16 :
    ends (exec .clenc { State.reset with cfg := 0x08, plen := 1, palMem := [(0, 0xFF00F800)] })
      (fun t => t.byteMem == [(0, 0xE0), (1, 0x83)] && t.bpos == 2) = true := by decide +kernel
/-- V4.5. -/
theorem test_clenc_indexed_type :
    ends (exec .clenc { State.reset with cfg := 0x28 }) (fun t => t.status == 2 && t.cause == 2) = true := by decide +kernel

/-- V5.1. -/
theorem test_clswz_32 :
    ends (exec .clswz { State.reset with plen := 32, palMem := countingPalette 32 })
      (fun t => (List.range 32).map (fun i => (t.palAt i).toNat) ==
        List.range 8 ++ List.range' 16 8 ++ List.range' 8 8 ++ List.range' 24 8) = true := by decide +kernel
/-- V5.4. -/
theorem test_clswz_48_leaves_the_tail :
    ends (exec .clswz { State.reset with plen := 48, palMem := countingPalette 48 })
      (fun t => t.palAt 8 == 16 && t.palAt 16 == 8 && t.palAt 40 == 40 && t.palAt 47 == 47) = true := by decide +kernel
/-- V5.6. -/
theorem test_clcmp_16_colours_without_the_flag :
    ends (exec .clcmp { State.reset with cfg := 0x44, plen := 32, palMem := countingPalette 32 })
      (fun t => t.palMem == countingPalette 32) = true := by decide +kernel
/-- V5.11. -/
theorem test_clcmp_swaps_for_other_types :
    ends (exec .clcmp { State.reset with cfg := 0x40, plen := 32, palMem := countingPalette 32 })
      (fun t => t.palAt 8 == 16 && t.palAt 23 == 15 && t.palAt 24 == 24) = true := by decide +kernel

/-- The 16 bytes of V6.1. -/
def pairBytes : List Byte :=
  [0x23, 0x41, 0x30, 0x99, 0x05, 0x40, 0x00, 0x80, 0x6D, 0x01, 0x10, 0x00, 0xBC, 0x0A, 0x00, 0x00]

/-- The fields of V6.1. -/
def pairFields : GsFields :=
  { GsFields.zero with bp := 0x123, bw := 1, psm := 0x13, wl2 := 6, hl2 := 6, cc := 1, cbp := 0x200, clc := 4, lcm := 1,
                       mxl := 3, mmag := 1, mmin := 5, lodl := 2, lodk := 0xABC }

/-- V6.1. -/
theorem test_gsdec :
    ends (exec .gsdec (withBytes pairBytes))
      (fun t => t.tex0 == 0x8000400599304123 && t.tex1 == 0x00000ABC0010016D && t.gf == pairFields && t.bpos == 16) = true := by
  decide +kernel
/-- V6.2. -/
theorem test_gsdec_reserved_bit :
    ends (exec .gsdec (withBytes [0, 0, 0, 0, 0, 0, 0, 0, 2, 0, 0, 0, 0, 0, 0, 0]))
      (fun t => t.status == 2 && t.cause == 1 && t.tex0 == 0 && t.bpos == 0) = true := by decide +kernel
/-- V6.4, at `BPOS` = 0. -/
theorem test_gsenc :
    ends (exec .gsenc { State.reset with gf := pairFields })
      (fun t => t.byteMem.map (·.2) == pairBytes && t.tex1 == 0x00000ABC0010016D && t.bpos == 16) = true := by decide +kernel
/-- V6.7. -/
theorem test_gsenc_zero :
    ends (exec .gsenc State.reset) (fun t => t.byteMem.map (·.2) == List.replicate 16 0 && t.tex0 == 0) = true := by
  decide +kernel

/-- V7.17. -/
theorem test_rst :
    ends (exec .rst { State.reset with word := 5, bpos := 9, byteMem := [(3, 7)] })
      (fun t => t == { State.reset with byteMem := [(3, 7)] }) = true := by decide
/-- V7.1, by a step. -/
theorem test_step_reserved_word :
    ends (step (State.reset.withFetchWord 32 0)) (fun t => t == { State.reset with status := 2, cause := 5 }) = true := by
  decide
/-- V7.14, by a step. -/
theorem test_step_fault_state_ignores_a_word :
    ends (step ((faulted 4).withFetchWord 32 0)) (fun t => t == faulted 4) = true := by decide
/-- V7.15, by a step. -/
theorem test_step_rst_in_the_fault_state :
    ends (step ((faulted 4).withFetchWord 32 0xFF)) (fun t => t == State.reset) = true := by decide
/-- V7.16, by a step. -/
theorem test_step_not_the_exact_rst_word :
    ends (step ((faulted 4).withFetchWord 32 0x1FF)) (fun t => t == faulted 4) = true := by decide
/-- V7.18, by a step. -/
theorem test_step_fault_state_ignores_a_write :
    ends (step (about (faulted 4) (.write 4 1))) (fun t => t == faulted 4) = true := by decide
/-- V1.1, by a step. -/
theorem test_step_pack64 :
    ends (step (({ State.reset with val := 0x3FFF } : State).withFetchWord 32 0x2513))
      (fun t => t == { State.reset with val := 0x3FFF, word := 0x0007FFE000000000 }) = true := by decide +kernel
/-- R17: bits 15:9 of a write to `CFG` are ignored. -/
theorem test_step_cfg_hardwired :
    ends (step (about State.reset (.write 3 0xFFFF))) (fun t => t.cfg == 0x01FF) = true := by decide

/-! Witnesses: for each obligation with hypotheses, a state and operands that meet them all. -/

theorem inv_of {s : State} (h1 : s.status = 0x00#8) (h2 : s.cause = 0) (h3 : s.cfg &&& ~~~cfgMask = 0)
    (h4 : s.byteMem = []) (h5 : s.pixMem = []) (h6 : s.palMem = []) (h7 : s.memDraw < s.draws) : s.Inv where
  status := .inl h1
  causeIdle := fun _ => h2
  causeFaulted := fun h => absurd h (by simp [State.fault, h1])
  cfg := h3
  memories := by constructor <;> simp [h4, h5, h6]
  drawsFresh := h7

theorem witness_DecodeOfEncode : (Instr.unpk64 64 63).wellFormed = true := by decide

theorem witness_EncodeOfDecode : decode 0x000E2517 = .ok (.unpk64 14 37) := by decide

/-- One word for each clause of R61. -/
theorem witness_RefusedWordsAreTheReservedOnes :
    ReservedWord 0x01000020 ∧ ReservedWord 0x00000018 ∧ ReservedWord 0x00000120 ∧ ReservedWord 0x00010013 ∧
    ReservedWord 0x00000810 ∧ ReservedWord 0x00010814 ∧ ReservedWord 0x00000017 ∧ ReservedWord 0x00410017 ∧
    ¬ ReservedWord 0x00403F17 := by
  refine ⟨?_, ?_, ?_, ?_, ?_, ?_, ?_, ?_, ?_⟩ <;> unfold ReservedWord <;> decide

theorem witness_StepRunsTheDecodedCommand :
    (about State.reset (.write 0 ((0x20 : CmdWord).setWidth 64))).inbox = .write 0 ((0x20 : CmdWord).setWidth 64) :: [] ∧
    (about State.reset (.write 0 ((0x20 : CmdWord).setWidth 64))).busy = false ∧
    (about State.reset (.write 0 ((0x20 : CmdWord).setWidth 64))).fault = false ∧ decode 0x20 = .ok .dec16 := by decide

theorem witness_ReservedWordRaisesIllegalCommand :
    (about State.reset (.write 0 ((0x120 : CmdWord).setWidth 64))).Inv ∧
    (about State.reset (.write 0 ((0x120 : CmdWord).setWidth 64))).fault = false ∧
    (about State.reset (.write 0 ((0x120 : CmdWord).setWidth 64))).inbox = .write 0 ((0x120 : CmdWord).setWidth 64) :: [] ∧
    ReservedWord 0x120 :=
  ⟨inv_of rfl rfl rfl rfl rfl rfl (by decide), by decide, rfl, by unfold ReservedWord; decide⟩

/-- A command word, a register write and a memory write, each in the fault state. -/
theorem witness_FaultStateIgnoresCommandsAndWrites :
    (faulted 4).busy = false ∧ (faulted 4).fault = true ∧
    ((0x1FF : CmdWord) ≠ 0x000000FF ∧
      (about (faulted 4) (.write 0 ((0x1FF : CmdWord).setWidth 64))).inbox =
        .write 0 ((0x1FF : CmdWord).setWidth 64) :: []) ∧
    isPlainHostWrite (.write 34 0xFFF) ∧ isPlainHostWrite (.writeByte 0 1) ∧
    isPlainHostWrite (.writePix 0 ⟨1, 2⟩) ∧ isPlainHostWrite (.writePal 255 1) :=
  ⟨by decide, by decide, ⟨by decide, rfl⟩, .inl ⟨34, 0xFFF, rfl, by decide, by decide⟩, .inr (.inl ⟨0, 1, rfl⟩),
    .inr (.inr (.inl ⟨0, _, rfl⟩)), .inr (.inr (.inr ⟨255, 1, rfl⟩))⟩

/-- One state for each clause: a number that reads 0, the first and the last register, and the last cell each memory has
at its least capacity. -/
theorem witness_HostReadsAreServed :
    State.reset.busy = false ∧ (about State.reset (.read 35)).inbox = .read 35 :: [] ∧
    ((about (faulted 4) (.read 1)).inbox = .read 1 :: [] ∧ (1, 2) ∈ (about (faulted 4) (.read 1)).registerMap) ∧
    ((about State.reset (.read 34)).inbox = .read 34 :: [] ∧ (34, 0) ∈ (about State.reset (.read 34)).registerMap) ∧
    (about State.reset (.readByte 15)).inbox = .readByte 15 :: [] ∧ 15 < Config.byteSize ∧
    (about State.reset (.readPix 0)).inbox = .readPix 0 :: [] ∧ 0 < Config.pixCap ∧
    (about State.reset (.readPal 255)).inbox = .readPal 255 :: [] ∧ 255 < Config.palCap :=
  ⟨by decide, rfl, by decide, by decide, rfl, by have := least_byteSize; omega, rfl, by unfold Config.pixCap; omega, rfl,
    by unfold Config.palCap; omega⟩

theorem witness_RstWordActsInEveryState :
    (about (faulted 6) (.write 0 0x000000FF)).busy = false ∧
    (about (faulted 6) (.write 0 0x000000FF)).inbox = .write 0 0x000000FF :: [] := by decide

/-- Both ways out: the reset input and `RST`. -/
theorem witness_OnlyResetLeavesTheFaultState :
    (faulted 6).fault = true ∧
    (∃ t, step (about (faulted 6) (.write 0 0x000000FF)) = .next t ∧ t.fault = false) ∧
    (∃ t, step (about (faulted 6) .reset) = .next t ∧ t.fault = false) :=
  ⟨by decide, ⟨_, rfl, by decide⟩, ⟨_, rfl, by decide⟩⟩

/-- A fault raised, and a cause cleared. -/
theorem witness_CauseKeepsTheFirstFault :
    (∃ t, step (State.reset.withFetchWord 32 0) = .next t ∧ t.cause ≠ (State.reset.withFetchWord 32 0).cause) ∧
    (∃ t, step (about (faulted 6) .reset) = .next t ∧ t.cause ≠ (about (faulted 6) .reset).cause) :=
  ⟨⟨_, rfl, by decide⟩, ⟨_, rfl, by decide⟩⟩

theorem witness_BlockWaitsForTheHost : (faulted 2).inbox = [] := by decide

theorem witness_HardwareResetEffect : (about (faulted 2) .reset).inbox = .reset :: [] := by decide

/-- The narrowest and the widest port, `CFG`, and a number the host cannot write. -/
theorem witness_HostWritesOneRegister :
    State.reset.busy = false ∧ State.reset.fault = false ∧
    (hostWritable 21 ∧ (1 : BitVec 64).toNat < 2 ^ portWidth 21) ∧
    (hostWritable 14 ∧ (0xFFFFFFFFFFFFFFFF : BitVec 64).toNat < 2 ^ portWidth 14) ∧
    (hostWritable 3 ∧ (0xFFFF : BitVec 64).toNat < 2 ^ portWidth 3) ∧
    (¬ hostWritable 15 ∧ (1 : BitVec 64).toNat < 2 ^ portWidth 15) ∧
    (about State.reset (.write 14 0xFFFFFFFFFFFFFFFF)).inbox = .write 14 0xFFFFFFFFFFFFFFFF :: [] := by
  unfold hostWritable
  decide +kernel

/-- One state for each memory, at the last cell its least capacity has. -/
theorem witness_HostWritesOneCell :
    State.reset.busy = false ∧ State.reset.fault = false ∧
    (about State.reset (.writeByte 15 1)).inbox = .writeByte 15 1 :: [] ∧ 15 < Config.byteSize ∧
    (about State.reset (.writePix 0 ⟨1, 2⟩)).inbox = .writePix 0 ⟨1, 2⟩ :: [] ∧ 0 < Config.pixCap ∧
    (about State.reset (.writePal 255 1)).inbox = .writePal 255 1 :: [] ∧ 255 < Config.palCap :=
  ⟨by decide, by decide, rfl, by have := least_byteSize; omega, rfl, by unfold Config.pixCap; omega, rfl,
    by unfold Config.palCap; omega⟩

/-- One state for each stop, at the first cell past each memory and the first value past a port. -/
theorem witness_HostAccessStops :
    ((about (faulted 4) (.readByte Config.byteSize)).busy = false ∧
      (about (faulted 4) (.readByte Config.byteSize)).inbox = .readByte Config.byteSize :: [] ∧
      (about (faulted 4) (.readPix Config.pixCap)).inbox = .readPix Config.pixCap :: [] ∧
      (about (faulted 4) (.readPal Config.palCap)).inbox = .readPal Config.palCap :: []) ∧
    ((about State.reset (.writeByte Config.byteSize 1)).busy = false ∧
      (about State.reset (.writeByte Config.byteSize 1)).fault = false ∧
      (about State.reset (.writeByte Config.byteSize 1)).inbox = .writeByte Config.byteSize 1 :: [] ∧
      (about State.reset (.writePix Config.pixCap ⟨1, 2⟩)).inbox = .writePix Config.pixCap ⟨1, 2⟩ :: [] ∧
      (about State.reset (.writePal Config.palCap 1)).inbox = .writePal Config.palCap 1 :: []) ∧
    ((about State.reset (.write 21 2)).busy = false ∧ (about State.reset (.write 21 2)).inbox = .write 21 2 :: [] ∧
      2 ^ portWidth 21 ≤ (2 : BitVec 64).toNat) ∧
    (({ about State.reset (.read 2) with status := 1 } : State).busy = true ∧ HostAction.read 2 ≠ .reset ∧
      HostAction.read 2 ≠ .read 1 ∧ ({ about State.reset (.read 2) with status := 1 } : State).inbox = .read 2 :: []) :=
  ⟨⟨rfl, rfl, rfl, rfl⟩, ⟨rfl, rfl, rfl, rfl, rfl⟩, ⟨by decide, rfl, by decide⟩, by decide, by decide, by decide, rfl⟩

theorem witness_StepKeepsTheInvariant :
    (about State.reset (.write 0 0x20)).Inv ∧ ∃ t, step (about State.reset (.write 0 0x20)) = .next t :=
  ⟨inv_of rfl rfl rfl rfl rfl rfl (by decide), ⟨_, rfl⟩⟩

theorem witness_HostIsNeverRefusedAsBusy : (about State.reset (.write 0 0x20)).Inv :=
  inv_of rfl rfl rfl rfl rfl rfl (by decide)

theorem witness_CommandsFaultOnlyAsListed :
    State.reset.fault = false ∧ ∃ t, exec .pxdec State.reset = .next t ∧ t.fault = true :=
  ⟨by decide, ⟨_, rfl, by decide⟩⟩

/-- A fault that is not `IndexRange`, and one `IndexRange` fault of each command that raises it. -/
theorem witness_FaultingCommandLeavesTheRest :
    State.reset.fault = false ∧
    ends (exec .pxdec State.reset) (fun t => t.fault && t.cause == 2) = true ∧
    ends (exec .pxdec { image (withBytes [0x10]) 0x105 1 1 with plen := 16 }) (fun t => t.fault && t.cause == 6) = true ∧
    ends (exec .pxres { onePixel 5 0 16 with plen := 16 }) (fun t => t.fault && t.cause == 6) = true ∧
    ends (exec .pxenci (onePixel 5 0 0xFFFFFFFF)) (fun t => t.fault && t.cause == 6) = true := by decide +kernel

/-- A command that completes and changes a register, and one that changes `STATUS` and `CAUSE`. -/
theorem witness_OnlyListedCommandsWriteEachRegister :
    (Instr.enc16 ≠ .rst ∧ ∃ t, exec .enc16 { State.reset with col := 8 } = .next t ∧
      t.pixw ≠ ({ State.reset with col := 8 } : State).pixw) ∧
    (Instr.pxdec ≠ .rst ∧ State.reset.fault = false ∧ ∃ t, exec .pxdec State.reset = .next t ∧
      t.status ≠ State.reset.status ∧ t.cause ≠ State.reset.cause) :=
  ⟨⟨by decide, ⟨_, rfl, by decide⟩⟩, by decide, by decide, ⟨_, rfl, by decide, by decide⟩⟩

theorem witness_FaultEntry : State.reset.fault = false := by decide

theorem witness_CodecCommandsFaultRightAfterReset : 0x39 ∈ [0x30, 0x31, 0x32, 0x33, 0x38, 0x39] := by decide

/-- Every width at its largest offset. -/
theorem witness_PackResult :
    (8, Instr.pack8) ∈ [(8, Instr.pack8), (16, Instr.pack16), (32, Instr.pack32), (64, Instr.pack64)] ∧
    (7 : Byte).toNat < 8 ∧ (15 : Byte).toNat < 16 ∧ (31 : Byte).toNat < 32 ∧ (63 : Byte).toNat < 64 :=
  ⟨.head _, by decide⟩

theorem witness_PackBitByBit :
    (16, Instr.pack16) ∈ [(8, Instr.pack8), (16, Instr.pack16), (32, Instr.pack32), (64, Instr.pack64)] ∧
    (15 : Byte).toNat < 16 :=
  ⟨.tail _ (.head _), by decide⟩

/-- Every width at its largest offset and count. -/
theorem witness_UnpackResult :
    (8, Instr.unpk8) ∈ [(8, Instr.unpk8), (16, Instr.unpk16), (32, Instr.unpk32), (64, Instr.unpk64)] ∧
    (7 : Byte).toNat < 8 ∧ 1 ≤ (8 : Byte).toNat ∧ (8 : Byte).toNat ≤ 8 ∧ (63 : Byte).toNat < 64 ∧ (64 : Byte).toNat ≤ 64 :=
  ⟨.head _, by decide⟩

theorem witness_UnpackBitByBit :
    (16, Instr.unpk16) ∈ [(8, Instr.unpk8), (16, Instr.unpk16), (32, Instr.unpk32), (64, Instr.unpk64)] ∧
    (15 : Byte).toNat < 16 ∧ 1 ≤ (1 : Byte).toNat ∧ (1 : Byte).toNat ≤ 16 :=
  ⟨.tail _ (.head _), by decide⟩

/-- V1.22: the whole word at offset 0. -/
theorem witness_PackThenUnpackRestores :
    (64, Instr.pack64, Instr.unpk64) ∈ [(8, Instr.pack8, Instr.unpk8), (16, Instr.pack16, Instr.unpk16),
      (32, Instr.pack32, Instr.unpk32), (64, Instr.pack64, Instr.unpk64)] ∧
    ({ State.reset with val := 0xFFFFFFFFFFFFFFFF } : State).word = 0 ∧ 1 ≤ (64 : Byte).toNat ∧
    (0 : Byte).toNat + (64 : Byte).toNat ≤ 64 ∧
    ({ State.reset with val := 0xFFFFFFFFFFFFFFFF } : State).val.toNat < 2 ^ (64 : Byte).toNat :=
  ⟨.tail _ (.tail _ (.tail _ (.head _))), by decide +kernel⟩

/-- One pixel of each true-colour type, ending at the last byte of the least BYTE memory. -/
theorem image_fits_one_pixel (s : State) (h1 : s.pixelCount = 1) (h2 : s.bpos.toNat + pixelBytes s.ict 1 ≤ 16) :
    s.ImageFits := by
  have := least_byteSize
  refine ⟨?_, ?_⟩
  · rw [h1]; unfold Config.pixCap; omega
  · rw [h1]; omega

/-- A state for every image command with one pixel of colour type `cfg`, the cursor at `bpos`. -/
def pixelAt (cfg : BitVec 16) (bpos : BitVec 32) : State := { onePixel cfg 0x78563412 3 with bpos := bpos }

theorem witness_PxdecTrueColor :
    ((pixelAt 1 14).ict.isTrue = true ∧ (pixelAt 1 14).ImageFits) ∧
    ((pixelAt 2 13).ict.isTrue = true ∧ (pixelAt 2 13).ImageFits) ∧
    ((pixelAt 3 12).ict.isTrue = true ∧ (pixelAt 3 12).ImageFits) :=
  ⟨⟨by decide, image_fits_one_pixel _ (by decide) (by decide)⟩, ⟨by decide, image_fits_one_pixel _ (by decide) (by decide)⟩,
    ⟨by decide, image_fits_one_pixel _ (by decide) (by decide)⟩⟩

theorem witness_PxenctResult : (pixelAt 3 12).ict.isTrue = true ∧ (pixelAt 3 12).ImageFits :=
  witness_PxdecTrueColor.2.2

/-- A palette present whose last entry the one index names, as in V3.4. -/
def lookedUp : State := { image (withBytes [0xFF]) 0x105 1 1 with plen := 256 }

/-- With a palette and every index below `PLEN`, and without a palette, for both indexed types. -/
theorem witness_PxdecIndexed :
    (lookedUp.ict.isIndexed = true ∧ lookedUp.ImageFits ∧ lookedUp.palp = true ∧
      lookedUp.plen.toNat ≤ Config.palCap ∧ ∀ i, i < lookedUp.pixelCount → lookedUp.storedIndex i < lookedUp.plen.toNat) ∧
    ((pixelAt 4 15).ict.isIndexed = true ∧ (pixelAt 4 15).ImageFits ∧ (pixelAt 4 15).palp = false) :=
  ⟨⟨by decide, image_fits_one_pixel _ (by decide) (by decide), by decide,
      by unfold Config.palCap; exact Nat.le_add_left _ _, by decide⟩,
    ⟨by decide, image_fits_one_pixel _ (by decide) (by decide), by decide⟩⟩

/-- One pixel whose index is the last of the palette present. -/
def resolvedPixel : State := { onePixel 0x105 0 255 with plen := 256 }

/-- For each clause a state: a true-colour pixel; indexed bytes with a palette present and without; the largest nibble
without a palette; an index that a palette present resolves. -/
theorem witness_PixelRoundTrips :
    ((pixelAt 1 14).ImageFits ∧ (pixelAt 1 14).ict.isTrue = true) ∧
    (lookedUp.ImageFits ∧ lookedUp.ict.isIndexed = true ∧ lookedUp.palp = true ∧ lookedUp.plen.toNat ≤ Config.palCap ∧
      ∀ i, i < lookedUp.pixelCount → lookedUp.storedIndex i < lookedUp.plen.toNat) ∧
    ((pixelAt 4 15).ImageFits ∧ (pixelAt 4 15).ict.isIndexed = true ∧ (pixelAt 4 15).palp = false) ∧
    ((onePixel 4 0 15).ImageFits ∧ (onePixel 4 0 15).ict.isIndexed = true ∧ (onePixel 4 0 15).palp = false ∧
      ∀ i, i < (onePixel 4 0 15).pixelCount → 0 ≤ ((onePixel 4 0 15).pixAt i).index.toInt ∧
        ((onePixel 4 0 15).pixAt i).index.toInt ≤ if (onePixel 4 0 15).ict = .indexColor4 then 15 else 255) ∧
    (resolvedPixel.ImageFits ∧ resolvedPixel.ict.isIndexed = true ∧
      (∀ i, i < resolvedPixel.pixelCount → 0 ≤ (resolvedPixel.pixAt i).index.toInt ∧
        (resolvedPixel.pixAt i).index.toInt ≤ if resolvedPixel.ict = .indexColor4 then 15 else 255) ∧
      resolvedPixel.palp = true ∧ resolvedPixel.plen.toNat ≤ Config.palCap ∧
      ∀ i, i < resolvedPixel.pixelCount → (resolvedPixel.pixAt i).index.toInt < resolvedPixel.plen.toNat) :=
  ⟨⟨witness_PxdecTrueColor.1.2, by decide⟩,
    ⟨witness_PxdecIndexed.1.2.1, witness_PxdecIndexed.1.1, witness_PxdecIndexed.1.2.2⟩,
    ⟨witness_PxdecIndexed.2.2.1, witness_PxdecIndexed.2.1, witness_PxdecIndexed.2.2.2⟩,
    ⟨image_fits_one_pixel _ (by decide) (by decide), by decide, by decide, by decide⟩,
    image_fits_one_pixel _ (by decide) (by decide), by decide, by decide, by decide,
    by unfold Config.palCap; exact Nat.le_add_left _ _, by decide⟩

/-- The largest image fits no PIX memory. -/
theorem largest_image_overruns (s : State) (h : s.pixelCount = 0xFFFF * 0xFFFF) : ¬ s.ImageFits := by
  have := pixCap_le
  rintro ⟨h1, -⟩
  omega

/-- An image of that type at the top of the address space, where no pixel fits. -/
theorem top_of_memory_overruns (s : State) (h1 : s.pixelCount = 1) (h2 : s.bpos.toNat = 2 ^ 32 - 1)
    (h3 : 1 ≤ pixelBytes s.ict 1) : ¬ s.ImageFits := by
  have := byteSize_lt
  rintro ⟨-, h⟩
  rw [h1] at h
  omega

/-- One state for each clause. The third needs a `PAL_CAP` below 65535: with the largest one no `PLEN` exceeds it. -/
theorem witness_PxdecFaults :
    State.reset.fault = false ∧ State.reset.ict.isBad = true ∧
    ((pixelAt 5 0xFFFFFFFF).ict.isBad = false ∧ ¬ (pixelAt 5 0xFFFFFFFF).ImageFits) ∧
    (Config.palCap < 0xFFFF →
      ({ lookedUp with plen := 0xFFFF } : State).ict.isIndexed = true ∧ ({ lookedUp with plen := 0xFFFF } : State).palp = true ∧
      ({ lookedUp with plen := 0xFFFF } : State).ImageFits ∧
      Config.palCap < ({ lookedUp with plen := 0xFFFF } : State).plen.toNat) ∧
    (({ lookedUp with plen := 255 } : State).ict.isIndexed = true ∧ ({ lookedUp with plen := 255 } : State).palp = true ∧
      ({ lookedUp with plen := 255 } : State).ImageFits ∧ ({ lookedUp with plen := 255 } : State).plen.toNat ≤ Config.palCap ∧
      ∃ i, i < ({ lookedUp with plen := 255 } : State).pixelCount ∧
        ({ lookedUp with plen := 255 } : State).plen.toNat ≤ ({ lookedUp with plen := 255 } : State).storedIndex i) :=
  ⟨by decide, by decide, ⟨by decide, top_of_memory_overruns _ (by decide) (by decide) (by decide)⟩,
    fun h => ⟨by decide, by decide, image_fits_one_pixel _ (by decide) (by decide), h⟩,
    by decide, by decide, image_fits_one_pixel _ (by decide) (by decide),
    by unfold Config.palCap; exact Nat.le_trans (by decide) (Nat.le_add_left 256 _), 0, by decide, by decide⟩

/-- One state for each clause. -/
theorem witness_PxenctFaults :
    State.reset.fault = false ∧ State.reset.ict.isBad = true ∧ (pixelAt 4 0).ict.isIndexed = true ∧
    ((image State.reset 3 0xFFFF 0xFFFF).ict.isTrue = true ∧ ¬ (image State.reset 3 0xFFFF 0xFFFF).ImageFits) :=
  ⟨by decide, by decide, by decide, by decide, largest_image_overruns _ (by decide)⟩

theorem witness_PxenciIndex8Result :
    (onePixel 5 0 255).ict = .indexColor8 ∧ (onePixel 5 0 255).ImageFits ∧
    ∀ i, i < (onePixel 5 0 255).pixelCount →
      0 ≤ ((onePixel 5 0 255).pixAt i).index.toInt ∧ ((onePixel 5 0 255).pixAt i).index.toInt ≤ 255 :=
  ⟨by decide, image_fits_one_pixel _ (by decide) (by decide), by decide⟩

theorem witness_PxenciIndex4Result :
    (onePixel 4 0 15).ict = .indexColor4 ∧ (onePixel 4 0 15).ImageFits ∧
    ∀ i, i < (onePixel 4 0 15).pixelCount →
      0 ≤ ((onePixel 4 0 15).pixAt i).index.toInt ∧ ((onePixel 4 0 15).pixAt i).index.toInt ≤ 15 :=
  ⟨by decide, image_fits_one_pixel _ (by decide) (by decide), by decide⟩

/-- One state for each clause; for the last, the first index too large and the index -1. -/
theorem witness_PxenciFaults :
    State.reset.fault = false ∧ State.reset.ict.isBad = true ∧ (pixelAt 3 0).ict.isTrue = true ∧
    ((pixelAt 4 0xFFFFFFFF).ict.isIndexed = true ∧ ¬ (pixelAt 4 0xFFFFFFFF).ImageFits) ∧
    ((onePixel 4 0 16).ict.isIndexed = true ∧ (onePixel 4 0 16).ImageFits ∧
      ∃ i, i < (onePixel 4 0 16).pixelCount ∧ (((onePixel 4 0 16).pixAt i).index.toInt < 0 ∨
        (if (onePixel 4 0 16).ict = .indexColor4 then 15 else 255) < ((onePixel 4 0 16).pixAt i).index.toInt)) ∧
    ((onePixel 5 0 0xFFFFFFFF).ict.isIndexed = true ∧ (onePixel 5 0 0xFFFFFFFF).ImageFits ∧
      ∃ i, i < (onePixel 5 0 0xFFFFFFFF).pixelCount ∧ (((onePixel 5 0 0xFFFFFFFF).pixAt i).index.toInt < 0 ∨
        (if (onePixel 5 0 0xFFFFFFFF).ict = .indexColor4 then 15 else 255) <
          ((onePixel 5 0 0xFFFFFFFF).pixAt i).index.toInt)) :=
  ⟨by decide, by decide, by decide, ⟨by decide, top_of_memory_overruns _ (by decide) (by decide) (by decide)⟩,
    ⟨by decide, image_fits_one_pixel _ (by decide) (by decide), 0, by decide, by decide⟩,
    ⟨by decide, image_fits_one_pixel _ (by decide) (by decide), 0, by decide, by decide⟩⟩

/-- One pixel whose index is the last of a palette of 256, and one past a palette of 16. -/
def resolvable : State := { onePixel 5 0 255 with plen := 256 }
def unresolvable : State := { onePixel 5 0 16 with plen := 16 }

theorem witness_PxresResult :
    resolvable.ict.isIndexed = true ∧ resolvable.pixelCount ≤ Config.pixCap ∧ resolvable.plen.toNat ≤ Config.palCap ∧
    ∀ i, i < resolvable.pixelCount →
      0 ≤ (resolvable.pixAt i).index.toInt ∧ (resolvable.pixAt i).index.toInt < resolvable.plen.toNat :=
  ⟨by decide, by unfold Config.pixCap; exact Nat.le_add_left 1 _, by unfold Config.palCap; exact Nat.le_add_left 256 _,
    by decide⟩

/-- One state for each clause. -/
theorem witness_PxresFaults :
    State.reset.fault = false ∧ State.reset.ict.isBad = true ∧ (pixelAt 1 0).ict.isTrue = true ∧
    ((image State.reset 5 0xFFFF 0xFFFF).ict.isIndexed = true ∧
      Config.pixCap < (image State.reset 5 0xFFFF 0xFFFF).pixelCount) ∧
    (unresolvable.ict.isIndexed = true ∧ unresolvable.pixelCount ≤ Config.pixCap ∧ unresolvable.plen.toNat ≤ Config.palCap ∧
      ∃ i, i < unresolvable.pixelCount ∧ ((unresolvable.pixAt i).index.toInt < 0 ∨
        (unresolvable.plen.toNat : Int) ≤ (unresolvable.pixAt i).index.toInt)) :=
  ⟨by decide, by decide, by decide,
    ⟨by decide, Nat.lt_of_le_of_lt pixCap_le (by decide)⟩,
    by decide, by unfold Config.pixCap; exact Nat.le_add_left 1 _,
    by unfold Config.palCap; exact Nat.le_trans (by decide) (Nat.le_add_left 256 _), 0, by decide, by decide⟩

/-- A CLUT of four 32-bit colours that fills the least BYTE memory. -/
def fourColours : State := { State.reset with cfg := 0x18, clbytes := 16, plen := 4 }

theorem clut_fits (s : State) (c : Nat) (h1 : c ≤ 256) (h2 : s.bpos.toNat + c * s.cct.bpc ≤ 16) : s.ClutFits c := by
  have := least_byteSize
  refine ⟨?_, by omega⟩
  unfold Config.palCap
  omega

theorem witness_CldecResult : fourColours.cct.isTrue = true ∧ fourColours.ClutFits fourColours.clutCount :=
  ⟨by decide, clut_fits _ _ (by decide) (by decide)⟩

theorem witness_ClencResult : fourColours.cct.isTrue = true ∧ fourColours.ClutFits fourColours.plen.toNat :=
  ⟨by decide, clut_fits _ _ (by decide) (by decide)⟩

theorem witness_ClutRoundTrips :
    fourColours.cct.isTrue = true ∧ fourColours.ClutFits fourColours.clutCount ∧
    fourColours.ClutFits fourColours.plen.toNat ∧
    fourColours.clbytes.toNat = fourColours.plen.toNat * fourColours.cct.bpc :=
  ⟨by decide, witness_CldecResult.2, witness_ClencResult.2, by decide⟩

/-- One state for each clause: a reserved type, more colours than any PAL holds, bytes past any BYTE memory. -/
theorem witness_ClutFaults :
    State.reset.fault = false ∧ ({ State.reset with cfg := 0x38 } : State).cct.isTrue = false ∧
    (({ fourColours with clbytes := 0xFFFFFFFF } : State).cct.isTrue = true ∧
      ¬ ({ fourColours with clbytes := 0xFFFFFFFF } : State).ClutFits
        ({ fourColours with clbytes := 0xFFFFFFFF } : State).clutCount) ∧
    (({ fourColours with bpos := 0xFFFFFFFF } : State).cct.isTrue = true ∧
      ¬ ({ fourColours with bpos := 0xFFFFFFFF } : State).ClutFits 4) := by
  refine ⟨by decide, by decide, ⟨by decide, ?_⟩, by decide, ?_⟩
  · rintro ⟨h, -⟩
    exact absurd (Nat.lt_of_le_of_lt h palCap_lt) (by decide +kernel)
  · rintro ⟨-, h⟩
    exact absurd (Nat.lt_of_le_of_lt h byteSize_lt) (by decide +kernel)

theorem witness_ClswzPermutesThePalette : ({ State.reset with plen := 256 } : State).plen.toNat ≤ Config.palCap := by
  unfold Config.palCap; exact Nat.le_add_left 256 _

theorem witness_ReorderTwiceRestores : Instr.clcmp ∈ [Instr.clswz, Instr.clcmp] ∧ ({ State.reset with plen := 256 } : State).plen.toNat ≤ Config.palCap :=
  ⟨.tail _ (.head _), witness_ClswzPermutesThePalette⟩

/-- The rows of R129: the test holds for another type and for `IndexColor4` with `CCF`; it fails for `CSM1` = 0 and for
`IndexColor4` without `CCF`. The `SizeOverrun` clause needs a `PAL_CAP` below 65535. -/
theorem witness_ClcmpFollowsItsTest :
    ({ State.reset with cfg := 0x45 } : State).swapApplies = true ∧
    ({ State.reset with cfg := 0xC4 } : State).swapApplies = true ∧
    ({ State.reset with cfg := 0x44 } : State).swapApplies = false ∧
    ({ State.reset with cfg := 0x05 } : State).swapApplies = false ∧
    (Config.palCap < 0xFFFF → Config.palCap < ({ State.reset with cfg := 0x45, plen := 0xFFFF } : State).plen.toNat) :=
  ⟨by decide, by decide, by decide, by decide, fun h => h⟩

/-- `CLSWZ` can overrun only a `PAL_CAP` below 65535; `GSENC` overruns every BYTE memory. -/
theorem witness_ClswzAndGsencOverrunFault :
    State.reset.fault = false ∧
    (Config.palCap < 0xFFFF → Config.palCap < ({ State.reset with plen := 0xFFFF } : State).plen.toNat) ∧
    Config.byteSize < ({ State.reset with bpos := 0xFFFFFFFF } : State).bpos.toNat + 16 :=
  ⟨by decide, fun h => h, Nat.lt_trans byteSize_lt (by decide +kernel)⟩

/-- The words of V6.1, at the last place the least BYTE memory has for them. -/
theorem witness_GsdecResult :
    (withBytes pairBytes).bpos.toNat + 16 ≤ Config.byteSize ∧
    (∀ k, k < 8 → (withBytes pairBytes).byteAt ((withBytes pairBytes).bpos.toNat + k) =
      (0x8000400599304123 : BitVec 64).extractLsb' (8 * k) 8) ∧
    (∀ k, k < 8 → (withBytes pairBytes).byteAt ((withBytes pairBytes).bpos.toNat + 8 + k) =
      (0x00000ABC0010016D : BitVec 64).extractLsb' (8 * k) 8) ∧
    (0x00000ABC0010016D : BitVec 64) &&& 0xFFFFF000FFE7FC02 = 0 :=
  ⟨least_byteSize, by decide +kernel, by decide +kernel, by decide +kernel⟩

/-- Each reserved bit of word 1 taken alone is refused: here the lowest and the highest. -/
theorem witness_GsdecFaults :
    State.reset.fault = false ∧ Config.byteSize < ({ State.reset with bpos := 0xFFFFFFFF } : State).bpos.toNat + 16 ∧
    ((withBytes [0, 0, 0, 0, 0, 0, 0, 0, 2, 0, 0, 0, 0, 0, 0, 0x80]).bpos.toNat + 16 ≤ Config.byteSize ∧
      (∀ k, k < 8 → (withBytes [0, 0, 0, 0, 0, 0, 0, 0, 2, 0, 0, 0, 0, 0, 0, 0x80]).byteAt (0 + 8 + k) =
        (0x8000000000000002 : BitVec 64).extractLsb' (8 * k) 8) ∧
      (0x8000000000000002 : BitVec 64) &&& 0xFFFFF000FFE7FC02 ≠ 0) :=
  ⟨by decide, Nat.lt_trans byteSize_lt (by decide +kernel), least_byteSize, by decide +kernel, by decide +kernel⟩

theorem witness_GsencResult : ({ State.reset with gf := pairFields } : State).bpos.toNat + 16 ≤ Config.byteSize :=
  least_byteSize

theorem witness_GsTexRoundTrips :
    (withBytes pairBytes).bpos.toNat + 16 ≤ Config.byteSize ∧ (withBytes pairBytes).fault = false ∧
    ∃ t, exec .gsdec (withBytes pairBytes) = .next t ∧ t.fault = false :=
  ⟨least_byteSize, by decide, ⟨_, rfl, by decide +kernel⟩⟩

end Sys2Proof.Tests
end

section
/-! PROOFS. What a command can do, once: the footprint of each of the 21 commands, and what every command keeps (10_state.md
R15 to R17, R31; 20_memory.md R37; 60_exceptions.md R159, R162). -/

namespace Sys2Proof.Machine

/-! A memory in canonical form and inside its capacity (R37). -/

/-- The cells listed are in order and lie below `cap`: what `State.MemoriesOk` asks of each memory. -/
def Memory.Ok {α : Type} (cap : Nat) (m : Memory α) : Prop := m.wf ∧ m.within cap

theorem Memory.Ok.write {α : Type} {cap : Nat} {m : Memory α} (h : Memory.Ok cap m) {a : Nat} (ha : a < cap) (v : α) :
    Memory.Ok cap (m.write a v) :=
  ⟨Memory.wf_write h.1 a v, Memory.within_write h.2 ha v⟩

/-- A loop that writes one cell below the capacity in each pass. -/
theorem Memory.Ok.forUpTo_write {α : Type} {cap : Nat} {m : Memory α} (h : Memory.Ok cap m) {n : Nat} {f : Nat → Nat}
    (hf : ∀ i, i < n → f i < cap) (v : Nat → α) : Memory.Ok cap (forUpTo n (fun i m => m.write (f i) (v i)) m) :=
  forUpTo_induct (Memory.Ok cap) h fun i _ hi hy => hy.write (hf i hi) _

theorem State.memoriesOk_iff {s : State} : s.MemoriesOk ↔
    Memory.Ok Config.byteSize s.byteMem ∧ Memory.Ok Config.pixCap s.pixMem ∧ Memory.Ok Config.palCap s.palMem :=
  ⟨fun h => ⟨⟨h.byteWf, h.byteWithin⟩, ⟨h.pixWf, h.pixWithin⟩, ⟨h.palWf, h.palWithin⟩⟩,
    fun ⟨hb, hp, hl⟩ => ⟨hb.1, hp.1, hl.1, hb.2, hp.2, hl.2⟩⟩

theorem Memory.Ok.forUpTo_storeColor {cap : Nat} {m : Memory Byte} (h : Memory.Ok cap m) {t : ColorType}
    (ht : t.isTrue = true) {base n : Nat} (hb : base + t.bpc * n ≤ cap) (c : Nat → Color) :
    Memory.Ok cap (forUpTo n (fun i m => storeColor t (base + t.bpc * i) (c i) m) m) :=
  ⟨wf_forUpTo_storeColor h.1 ht base n c, within_forUpTo_storeColor h.2 ht hb c⟩

/-- The loop of `PXENCI`: one byte in each pass (R105, R106). -/
theorem Memory.Ok.forUpTo_storeByte {cap : Nat} {m : Memory Byte} (h : Memory.Ok cap m) {base n : Nat}
    (hb : base + n ≤ cap) (v : Nat → Nat) :
    Memory.Ok cap (forUpTo n (fun j m => m.storeLE (base + j) 1 (v j)) m) :=
  forUpTo_induct (Memory.Ok cap) h fun _ _ hj hy =>
    ⟨Memory.wf_storeLE hy.1 _ _ _, Memory.within_storeLE hy.2 (by omega) _⟩

/-- One run of the palette swap stays inside the palette it is part of (R125, R127). -/
theorem Memory.Ok.swapRun {cap : Nat} {m : Memory Color} (h : Memory.Ok cap m) (d : Nat) {base : Nat}
    (hb : base + 32 ≤ cap) : Memory.Ok cap (swapRun d base m) :=
  forUpTo_induct (Memory.Ok cap) h fun _ _ hj hy => (hy.write (by omega) _).write (by omega) _

/-! The footprint of each command. -/

/-- `Effect s i t`: the ways the command `i` can take the state `s` to `t`. Each constructor names the fields written; a
memory's new contents are left open but for staying in order and inside its capacity. -/
inductive Effect (s : State) : Instr → State → Prop
  | word {i : Instr} (w : BitVec 64)
      (hi : ∃ off, i = .pack8 off ∨ i = .pack16 off ∨ i = .pack32 off ∨ i = .pack64 off) :
      Effect s i { s with word := w }
  | val {i : Instr} (v : BitVec 64)
      (hi : ∃ cnt off, i = .unpk8 cnt off ∨ i = .unpk16 cnt off ∨ i = .unpk32 cnt off ∨ i = .unpk64 cnt off) :
      Effect s i { s with val := v }
  | pixw (w : BitVec 16) : Effect s .enc16 { s with pixw := w }
  | col (c : Color) : Effect s .dec16 { s with col := c }
  /-- A fault that writes `STATUS` and `CAUSE` alone (R160, R162). -/
  | raised {i : Instr} (c : Cause) (hc : c ∈ causesOf i) (hne : c ≠ .indexRange) : Effect s i (s.raise c)
  | pxdecIndexRange (hn : s.pixelCount ≤ Config.pixCap) :
      Effect s .pxdec ((s.scramblePix s.pixelCount).raise .indexRange)
  | pxresIndexRange (hn : s.pixelCount ≤ Config.pixCap) :
      Effect s .pxres ((s.scrambleColors s.pixelCount).raise .indexRange)
  | pxenciIndexRange (hb : s.bpos.toNat + pixelBytes s.ict s.pixelCount ≤ Config.byteSize) :
      Effect s .pxenci ((s.scrambleBytes (pixelBytes s.ict s.pixelCount)).raise .indexRange)
  | pixels (m : Memory Pixel) (p : BitVec 32) (d : Nat)
      (hm : Memory.Ok Config.pixCap s.pixMem → Memory.Ok Config.pixCap m) (hd : s.draws ≤ d) :
      Effect s .pxdec { s with pixMem := m, bpos := p, draws := d }
  | bytes {i : Instr} (m : Memory Byte) (p : BitVec 32) (d : Nat) (hi : i ∈ [.pxenct, .pxenci, .clenc])
      (hm : Memory.Ok Config.byteSize s.byteMem → Memory.Ok Config.byteSize m) (hd : s.draws ≤ d) :
      Effect s i { s with byteMem := m, bpos := p, draws := d }
  | pixelColors (m : Memory Pixel) (hm : Memory.Ok Config.pixCap s.pixMem → Memory.Ok Config.pixCap m) :
      Effect s .pxres { s with pixMem := m }
  | palette (m : Memory Color) (n : BitVec 16) (p : BitVec 32)
      (hm : Memory.Ok Config.palCap s.palMem → Memory.Ok Config.palCap m) :
      Effect s .cldec { s with palMem := m, plen := n, bpos := p }
  | reordered {i : Instr} (m : Memory Color) (hi : i ∈ [.clswz, .clcmp])
      (hm : Memory.Ok Config.palCap s.palMem → Memory.Ok Config.palCap m) : Effect s i { s with palMem := m }
  /-- `CLCMP` whose test is false (R129). -/
  | notApplied : Effect s .clcmp s
  | gsdec (w0 w1 : BitVec 64) (g : GsFields) (p : BitVec 32) :
      Effect s .gsdec { s with tex0 := w0, tex1 := w1, gf := g, bpos := p }
  | gsenc (w0 w1 : BitVec 64) (m : Memory Byte) (p : BitVec 32)
      (hm : Memory.Ok Config.byteSize s.byteMem → Memory.Ok Config.byteSize m) :
      Effect s .gsenc { s with tex0 := w0, tex1 := w1, byteMem := m, bpos := p }
  | rst : Effect s .rst s.clearRegisters

/-- The bounds check of a command that reads or writes both BYTE and another memory (R44). -/
theorem overruns_eq_false {s : State} {n cap nb : Nat} (h : ¬ (decide (cap < n) || s.bytesOverrun nb) = true) :
    n ≤ cap ∧ s.bpos.toNat + nb ≤ Config.byteSize := by
  simpa [State.bytesOverrun] using h

theorem ColorType.isTrue_of_not_bad {t : ColorType} (hb : ¬ t.isBad = true) (hi : ¬ t.isIndexed = true) :
    t.isTrue = true := by
  simpa [ColorType.isBad, hi] using hb

theorem pxdec_effect (s : State) : Effect s .pxdec (pxdec s) := by
  simp only [pxdec]
  split
  · exact .raised .badColorType (by decide) (by decide)
  split
  · exact .raised .sizeOverrun (by decide) (by decide)
  next hover =>
  have hn : s.pixelCount ≤ Config.pixCap := (overruns_eq_false hover).1
  split
  · exact .raised .sizeOverrun (by decide) (by decide)
  split
  · exact .pxdecIndexRange hn
  · exact .pixels _ _ _ (fun h => h.forUpTo_write (f := id) (fun i hi => Nat.lt_of_lt_of_le hi hn) _)
      (by split <;> omega)

theorem pxenct_effect (s : State) : Effect s .pxenct (pxenct s) := by
  simp only [pxenct]
  split
  · exact .raised .badColorType (by decide) (by decide)
  next hbad =>
  split
  · exact .raised .wrongPath (by decide) (by decide)
  next hidx =>
  split
  · exact .raised .sizeOverrun (by decide) (by decide)
  next hover =>
  have ht := ColorType.isTrue_of_not_bad hbad hidx
  have hb : s.bpos.toNat + s.ict.bpc * s.pixelCount ≤ Config.byteSize :=
    pixelBytes_of_isTrue ht _ ▸ (overruns_eq_false hover).2
  exact .bytes _ _ _ (by decide) (fun h => h.forUpTo_storeColor ht hb _) le_rfl

theorem pxenci_effect (s : State) : Effect s .pxenci (pxenci s) := by
  simp only [pxenci]
  split
  · exact .raised .badColorType (by decide) (by decide)
  split
  · exact .raised .wrongPath (by decide) (by decide)
  split
  · exact .raised .sizeOverrun (by decide) (by decide)
  next hover =>
  have hb := (overruns_eq_false hover).2
  split
  · exact .pxenciIndexRange hb
  · exact .bytes _ _ _ (by decide) (fun h => h.forUpTo_storeByte hb _) (by split <;> omega)

theorem pxres_effect (s : State) : Effect s .pxres (pxres s) := by
  simp only [pxres]
  split
  · exact .raised .badColorType (by decide) (by decide)
  split
  · exact .raised .wrongPath (by decide) (by decide)
  split
  · exact .raised .sizeOverrun (by decide) (by decide)
  next hover =>
  have hn : s.pixelCount ≤ Config.pixCap := by
    simp only [Bool.or_eq_true, not_or, Bool.not_eq_true] at hover
    exact pixOverrun_eq_false.1 hover.1
  split
  · exact .pxresIndexRange hn
  · exact .pixelColors _ fun h => h.forUpTo_write (f := id) (fun i hi => Nat.lt_of_lt_of_le hi hn) _

theorem cldec_effect (s : State) : Effect s .cldec (cldec s) := by
  simp only [cldec]
  split
  · exact .raised .badColorType (by decide) (by decide)
  split
  · exact .raised .sizeOverrun (by decide) (by decide)
  next hover =>
  have hc := (overruns_eq_false hover).1
  exact .palette _ _ _ fun h => h.forUpTo_write (f := id) (fun i hi => Nat.lt_of_lt_of_le hi hc) _

theorem clenc_effect (s : State) : Effect s .clenc (clenc s) := by
  simp only [clenc]
  split
  · exact .raised .badColorType (by decide) (by decide)
  next ht =>
  split
  · exact .raised .sizeOverrun (by decide) (by decide)
  next hover =>
  have hb : s.bpos.toNat + s.cct.bpc * s.plen.toNat ≤ Config.byteSize :=
    Nat.mul_comm _ _ ▸ (overruns_eq_false hover).2
  exact .bytes _ _ _ (by decide) (fun h => h.forUpTo_storeColor (by simpa using ht) hb _) le_rfl

/-- The swap, as `CLSWZ` or as `CLCMP` (R125, R128). -/
theorem swapPalette_effect (s : State) {i : Instr} (hi : i ∈ [.clswz, .clcmp]) (hc : .sizeOverrun ∈ causesOf i) :
    Effect s i (swapPalette s) := by
  simp only [swapPalette]
  split
  · exact .raised .sizeOverrun hc (by decide)
  next hover =>
  have hp : s.plen.toNat ≤ Config.palCap := palOverrun_eq_false.1 (by simpa using hover)
  exact .reordered _ hi fun h => forUpTo_induct (Memory.Ok _) h fun r _ hr hy => hy.swapRun _ (by omega)

theorem gsdec_effect (s : State) : Effect s .gsdec (gsdec s) := by
  simp only [gsdec]
  split
  · exact .raised .sizeOverrun (by decide) (by decide)
  split
  · exact .raised .invalidRegisterData (by decide) (by decide)
  · exact .gsdec _ _ _ _

theorem gsenc_effect (s : State) : Effect s .gsenc (gsenc s) := by
  simp only [gsenc]
  split
  · exact .raised .sizeOverrun (by decide) (by decide)
  next hover =>
  have hb := State.bytesOverrun_eq_false.1 (Bool.not_eq_true _ ▸ hover)
  exact .gsenc _ _ _ _ fun h => ⟨wf_storeWords h.1 _ _ _, within_storeWords h.2 hb _ _⟩

/-- Every command ends in a next state within its footprint. -/
theorem exec_effect (i : Instr) (s : State) : ∃ t, exec i s = .next t ∧ Effect s i t := by
  cases i with
  | pack8 off => exact ⟨_, rfl, .word _ ⟨off, by simp⟩⟩
  | pack16 off => exact ⟨_, rfl, .word _ ⟨off, by simp⟩⟩
  | pack32 off => exact ⟨_, rfl, .word _ ⟨off, by simp⟩⟩
  | pack64 off => exact ⟨_, rfl, .word _ ⟨off, by simp⟩⟩
  | unpk8 cnt off => exact ⟨_, rfl, .val _ ⟨cnt, off, by simp⟩⟩
  | unpk16 cnt off => exact ⟨_, rfl, .val _ ⟨cnt, off, by simp⟩⟩
  | unpk32 cnt off => exact ⟨_, rfl, .val _ ⟨cnt, off, by simp⟩⟩
  | unpk64 cnt off => exact ⟨_, rfl, .val _ ⟨cnt, off, by simp⟩⟩
  | dec16 => exact ⟨_, rfl, .col _⟩
  | enc16 => exact ⟨_, rfl, .pixw _⟩
  | pxdec => exact ⟨_, rfl, pxdec_effect s⟩
  | pxenct => exact ⟨_, rfl, pxenct_effect s⟩
  | pxenci => exact ⟨_, rfl, pxenci_effect s⟩
  | pxres => exact ⟨_, rfl, pxres_effect s⟩
  | cldec => exact ⟨_, rfl, cldec_effect s⟩
  | clenc => exact ⟨_, rfl, clenc_effect s⟩
  | clswz => exact ⟨_, rfl, swapPalette_effect s (by decide) (by decide)⟩
  | clcmp =>
    refine ⟨_, rfl, ?_⟩
    split
    · exact swapPalette_effect s (by decide) (by decide)
    · exact .notApplied
  | gsdec => exact ⟨_, rfl, gsdec_effect s⟩
  | gsenc => exact ⟨_, rfl, gsenc_effect s⟩
  | rst => exact ⟨_, rfl, .rst⟩

theorem effect_of_exec {i : Instr} {s t : State} (h : exec i s = .next t) : Effect s i t := by
  obtain ⟨u, hu, he⟩ := exec_effect i s
  obtain rfl : u = t := by simpa [hu] using h
  exact he

/-! What every command keeps. -/

section
variable {i : Instr} {s t : State}

/-- A command other than `RST` leaves `STATUS` and `CAUSE`, or raises a fault (R15, R16). -/
theorem Effect.flags (h : Effect s i t) (hi : i ≠ .rst) :
    (t.status = s.status ∧ t.cause = s.cause) ∨
    ∃ c, t.status = statusFaulted s.status ∧ t.cause = if s.fault then s.cause else causeCode c := by
  cases h with
  | raised c => exact .inr ⟨c, rfl, rfl⟩
  | pxdecIndexRange | pxresIndexRange | pxenciIndexRange => exact .inr ⟨.indexRange, rfl, rfl⟩
  | rst => exact absurd rfl hi
  | _ => exact .inl ⟨rfl, rfl⟩

/-- A command other than `RST` that changes `STATUS` or `CAUSE` raises a fault. -/
theorem Effect.fault_of_flags_ne (h : Effect s i t) (hi : i ≠ .rst)
    (hne : t.status ≠ s.status ∨ t.cause ≠ s.cause) : t.fault = true := by
  rcases h.flags hi with ⟨hs, hc⟩ | ⟨c, hs, -⟩
  · simp [hs, hc] at hne
  · simp [State.fault, hs]

/-- No command writes the host's side or the power-on draw. -/
theorem Effect.hostSide (h : Effect s i t) :
    t.inbox = s.inbox ∧ t.readback = s.readback ∧ t.memDraw = s.memDraw := by
  cases h <;> exact ⟨rfl, rfl, rfl⟩

theorem Effect.draws_le (h : Effect s i t) : s.draws ≤ t.draws := by
  cases h with
  | pixels _ _ _ _ hd | bytes _ _ _ _ _ hd => exact hd
  | pxdecIndexRange | pxresIndexRange | pxenciIndexRange => exact Nat.le_succ _
  | _ => exact le_rfl

/-- `CFG` is the host's to write; a command can only clear it, by `RST` (R17). -/
theorem Effect.cfg (h : Effect s i t) : t.cfg = s.cfg ∨ i = .rst ∧ t.cfg = 0 := by
  cases h with
  | rst => exact .inr ⟨rfl, rfl⟩
  | _ => exact .inl rfl

/-- Every command keeps the memories in order and inside their capacities (R37, R44). -/
theorem Effect.memoriesOk (h : Effect s i t) (hs : s.MemoriesOk) : t.MemoriesOk := by
  rw [State.memoriesOk_iff] at hs ⊢
  obtain ⟨hb, hp, hl⟩ := hs
  cases h with
  | pxdecIndexRange hn | pxresIndexRange hn =>
    exact ⟨hb, hp.forUpTo_write (f := id) (fun i hi => Nat.lt_of_lt_of_le hi hn) _, hl⟩
  | pxenciIndexRange hbytes => exact ⟨hb.forUpTo_write (fun i hi => by omega) _, hp, hl⟩
  | pixels _ _ _ hm | pixelColors _ hm => exact ⟨hb, hm hp, hl⟩
  | bytes _ _ _ _ hm | gsenc _ _ _ _ hm => exact ⟨hm hb, hp, hl⟩
  | palette _ _ _ hm | reordered _ _ hm => exact ⟨hb, hp, hm hl⟩
  | _ => exact ⟨hb, hp, hl⟩

end

/-- Settles O26, by the footprint of each command. -/
theorem onlyListedCommandsWriteEachRegister : Obligations.OnlyListedCommandsWriteEachRegister := by
  intro i s t hi h
  replace h := effect_of_exec h
  refine ⟨?_, fun _ => h.fault_of_flags_ne hi, ?_⟩
  · cases h with
    | rst => exact absurd rfl hi
    | _ => exact ⟨rfl, rfl, rfl, rfl⟩
  · cases h with
    | rst => exact absurd rfl hi
    | word _ hw => simp [hw]
    | val _ hv => simp [hv]
    | bytes _ _ _ hb => fin_cases hb <;> simp
    | reordered _ hr => fin_cases hr <;> simp
    | _ => simp

end Sys2Proof.Machine
end

section
/-! PROOFS. What a step can do, once: the host's action it takes, the command a word issues, and what a register write
leaves (10_state.md R14, R31 to R33; 60_exceptions.md R164). -/

namespace Sys2Proof.Machine

/-! The decoder, as far as the step needs it (30_encoding.md R60). -/

theorem decodePack_eq_ok {make : Byte → Instr} {W : Nat} {a b : Byte} {i : Instr} :
    decodePack make W a b = .ok i ↔ b = 0 ∧ packOperandOk W a = true ∧ make a = i := by
  unfold decodePack
  split_ifs with hb ha
  · simp only [false_iff]
    exact fun h => hb h.1
  · simp [not_not.1 hb, ha]
  · simp [ha]

theorem decodeUnpk_eq_ok {make : Byte → Byte → Instr} {W : Nat} {a b : Byte} {i : Instr} :
    decodeUnpk make W a b = .ok i ↔ unpkOperandsOk W b a = true ∧ make b a = i := by
  unfold decodeUnpk
  split_ifs with ha hb
  · simp [unpkOperandsOk, Nat.not_lt.2 ha]
  · simp [hb]
  · simp [hb]

theorem decodePlain_eq_ok {i j : Instr} {a b : Byte} : decodePlain i a b = .ok j ↔ a = 0 ∧ b = 0 ∧ i = j := by
  unfold decodePlain
  split_ifs with h
  · simp only [false_iff]
    tauto
  · simp only [Except.ok.injEq]
    tauto

/-- A command word is its four bytes (R57). -/
theorem CmdWord.append_bytes (w : CmdWord) : w.z ++ w.b ++ w.a ++ w.op = w := by
  apply BitVec.eq_of_toNat_eq
  simp only [toNat_append_byte, CmdWord.z, CmdWord.b, CmdWord.a, CmdWord.op, BitVec.extractLsb'_toNat,
    Nat.shiftRight_eq_div_pow]
  omega

/-- `RST` is the one word 0x000000FF (R146). -/
theorem eq_rstWord_of_decode {w : CmdWord} (h : decode w = .ok .rst) : w = rstWord := by
  unfold decode at h
  split_ifs at h with hz
  unfold decodeFields at h
  split at h <;>
    simp only [decodePack_eq_ok, decodeUnpk_eq_ok, decodePlain_eq_ok, reduceCtorEq, and_false] at h
  next hop =>
  obtain ⟨ha, hb, -⟩ := h
  rw [← CmdWord.append_bytes w, not_not.1 hz, hb, ha, BitVec.eq_of_toNat_eq (y := 0xFF#8) hop]
  rfl

/-! The issue of a command (R14, R60, R164). -/

theorem completed_exec_eq_next {i : Instr} {s t : State} (h : completed (exec i s) = .next t) :
    ∃ u, exec i s = .next u ∧ t = u.complete := by
  obtain ⟨u, hu, -⟩ := exec_effect i s
  rw [hu] at h
  exact ⟨u, hu, (Host.Outcome.next.inj h).symm⟩

/-- What a word written to `CMD` does: ignored or `RST` in the fault state, else the decoded command or
`IllegalCommand`. -/
theorem issue_cases {s t : State} {w : CmdWord} (h : s.issue w = .next t) :
    (s.fault = true ∧ w ≠ rstWord ∧ t = s) ∨
    (s.fault = true ∧ w = rstWord ∧ t = s.clearRegisters.complete) ∨
    (s.fault = false ∧ ∃ i u, decode w = .ok i ∧ exec i s.begin = .next u ∧ t = u.complete) ∨
    (s.fault = false ∧ (∃ e, decode w = .error e) ∧ t = (s.begin.raise .illegalCommand).complete) := by
  unfold State.issue at h
  split at h
  next hf =>
    split at h
    next hw => exact .inr (.inl ⟨hf, hw, (Host.Outcome.next.inj h).symm⟩)
    next hw => exact .inl ⟨hf, hw, (Host.Outcome.next.inj h).symm⟩
  next hf =>
    rw [Bool.not_eq_true] at hf
    split at h
    next i hd =>
      obtain ⟨u, hu, ht⟩ := completed_exec_eq_next h
      exact .inr (.inr (.inl ⟨hf, i, u, hd, hu, ht⟩))
    next e hd => exact .inr (.inr (.inr ⟨hf, ⟨e, hd⟩, (Host.Outcome.next.inj h).symm⟩))

theorem issue_of_decode {s : State} {w : CmdWord} {i : Instr} (hf : s.fault = false) (hd : decode w = .ok i) :
    s.issue w = completed (exec i s.begin) := by
  simp [State.issue, hf, hd]

/-- A command word always leads to a next state. -/
theorem issue_eq_next (s : State) (w : CmdWord) : ∃ t, s.issue w = .next t := by
  have hex : ∀ i u, ∃ t, completed (exec i u) = .next t := fun i u => by
    obtain ⟨v, hv, -⟩ := exec_effect i u
    exact ⟨_, congrArg completed hv⟩
  unfold State.issue
  split
  · split
    · exact hex _ _
    · exact ⟨_, rfl⟩
  · split
    · exact hex _ _
    · exact ⟨_, rfl⟩

/-! One host action (R31 to R33). -/

theorem act_write_cmd (s : State) (v : BitVec 64) : s.act (.write 0 v) = s.issue (v.setWidth 32) := rfl

theorem act_write_reg (s : State) {n : Nat} (hn : n ≠ 0) (v : BitVec 64) :
    s.act (.write n v) = .next (s.writeReg n v) := if_neg hn

/-- An action the block does not ignore always leads to a next state: no command stops the model. -/
theorem act_eq_next (s : State) (a : HostAction) : ∃ t, s.act a = .next t := by
  cases a with
  | write n v =>
    by_cases hn : n = 0
    · subst hn
      exact issue_eq_next s _
    · exact ⟨_, act_write_reg s hn v⟩
  | _ => exact ⟨_, rfl⟩

/-- An action that leads to a next state was ignored in the fault state, or took effect. -/
theorem perform_cases {s t : State} {a : HostAction} (h : s.perform a = .next t) :
    (s.fault = true ∧ a.ignoredInFault = true ∧ t = s) ∨
    ((s.fault && a.ignoredInFault) = false ∧ a.tooWide = none ∧ a.beyond = none ∧ s.act a = .next t) := by
  unfold State.perform at h
  split at h
  · cases h
  split at h
  · cases h
  next hw =>
  split at h
  next hf =>
    rw [Bool.and_eq_true] at hf
    exact .inl ⟨hf.1, hf.2, (Host.Outcome.next.inj h).symm⟩
  next hf =>
    split at h
    · cases h
    next hb => exact .inr ⟨by simpa using hf, hw, hb, h⟩

/-- The only refusal of an idle block is of a value wider than its port. -/
theorem perform_ne_busy {s : State} (hb : s.busy = false) (a : HostAction) :
    s.perform a ≠ .refused .hostAccessWhileBusy := by
  unfold State.perform
  rw [if_neg (by simp [hb])]
  split
  · simp
  split
  · simp
  split
  · simp
  · obtain ⟨t, ht⟩ := act_eq_next s a
    simp [ht]

/-- A step waits, or takes the host's next action off the list (R177; log 1). -/
theorem step_cases {s t : State} (h : step s = .next t) :
    (s.inbox = [] ∧ t = s) ∨
    ∃ a rest, s.inbox = a :: rest ∧ ({ s with inbox := rest } : State).perform a = .next t := by
  unfold step State.takeAction at h
  split at h
  next hin => exact .inl ⟨hin, (Host.Outcome.next.inj h).symm⟩
  next a rest hin => exact .inr ⟨a, rest, hin, h⟩

theorem step_of_inbox {s : State} {a : HostAction} {rest : List HostAction} (hin : s.inbox = a :: rest) :
    step s = ({ s with inbox := rest } : State).perform a := by
  unfold step State.takeAction
  rw [hin]

/-- The step of an idle block whose next action is neither ignored nor out of its range. -/
theorem step_eq_act {s : State} {a : HostAction} {rest : List HostAction} (hin : s.inbox = a :: rest)
    (hbusy : s.busy = false) (hf : (s.fault && a.ignoredInFault) = false) (hw : a.tooWide = none)
    (hb : a.beyond = none) : step s = ({ s with inbox := rest } : State).act a := by
  have hbusy' : ({ s with inbox := rest } : State).busy = false := hbusy
  have hf' : (({ s with inbox := rest } : State).fault && a.ignoredInFault) = false := hf
  rw [step_of_inbox hin, State.perform, hbusy', hf', hw, hb]
  rfl

/-! The register file (R31, R32). -/

section
variable (s : State) (n : Nat) (v : BitVec 64)

@[simp] theorem State.writeReg_status : (s.writeReg n v).status = s.status := by unfold State.writeReg; split <;> rfl

@[simp] theorem State.writeReg_cause : (s.writeReg n v).cause = s.cause := by unfold State.writeReg; split <;> rfl

@[simp] theorem State.writeReg_byteMem : (s.writeReg n v).byteMem = s.byteMem := by unfold State.writeReg; split <;> rfl

@[simp] theorem State.writeReg_pixMem : (s.writeReg n v).pixMem = s.pixMem := by unfold State.writeReg; split <;> rfl

@[simp] theorem State.writeReg_palMem : (s.writeReg n v).palMem = s.palMem := by unfold State.writeReg; split <;> rfl

@[simp] theorem State.writeReg_inbox : (s.writeReg n v).inbox = s.inbox := by unfold State.writeReg; split <;> rfl

@[simp] theorem State.writeReg_readback : (s.writeReg n v).readback = s.readback := by unfold State.writeReg; split <;> rfl

@[simp] theorem State.writeReg_draws : (s.writeReg n v).draws = s.draws := by unfold State.writeReg; split <;> rfl

@[simp] theorem State.writeReg_memDraw : (s.writeReg n v).memDraw = s.memDraw := by unfold State.writeReg; split <;> rfl

end

/-- Only a write of register 3 reaches `CFG`, and it keeps the nine bits that exist (R17). -/
theorem State.writeReg_cfg (s : State) (n : Nat) (v : BitVec 64) :
    (s.writeReg n v).cfg = if n = 3 then v.setWidth 16 &&& cfgMask else s.cfg := by
  split_ifs with hn
  · subst hn
    rfl
  · unfold State.writeReg
    split
    · exact absurd rfl hn
    all_goals rfl

/-- A write of a number the host cannot write changes nothing (R31; log 14). -/
theorem State.writeReg_of_not_hostWritable (s : State) {n : Nat} (hn : ¬ hostWritable n) (v : BitVec 64) :
    s.writeReg n v = s := by
  unfold hostWritable at hn
  unfold State.writeReg
  split
  any_goals omega
  rfl

theorem setWidth_setWidth_of_toNat_lt {w : Nat} {v : BitVec 64} (h : v.toNat < 2 ^ w) :
    (v.setWidth w).setWidth 64 = v := by
  apply BitVec.eq_of_toNat_eq
  rw [BitVec.toNat_setWidth, BitVec.toNat_setWidth, Nat.mod_eq_of_lt h, Nat.mod_eq_of_lt v.isLt]

/-- A register reads back what the host wrote, within its port (R32); `CFG` its nine bits (R17). -/
theorem State.readReg_writeReg_self (s : State) {n : Nat} (hn : hostWritable n) {v : BitVec 64}
    (hv : v.toNat < 2 ^ portWidth n) : (s.writeReg n v).readReg n = if n = 3 then v &&& 0x1FF else v := by
  by_cases h3 : n = 3
  · subst h3
    change ((v.setWidth 16) &&& cfgMask).setWidth 64 = v &&& 0x1FF
    rw [BitVec.setWidth_and, setWidth_setWidth_of_toNat_lt (w := 16) hv]
    rfl
  · rw [if_neg h3]
    have hr : 4 ≤ n ∧ n ≤ 14 ∨ 16 ≤ n ∧ n ≤ 34 := by
      unfold hostWritable at hn
      omega
    obtain ⟨hlo, hhi⟩ | ⟨hlo, hhi⟩ := hr <;> interval_cases n
    all_goals exact setWidth_setWidth_of_toNat_lt hv

/-- A register write reaches no other register (R31). -/
theorem State.readReg_writeReg_of_ne (s : State) {n k : Nat} (hk : k ≠ n) (v : BitVec 64) :
    (s.writeReg n v).readReg k = s.readReg k := by
  unfold State.writeReg
  split <;> unfold State.readReg <;> split
  any_goals contradiction
  all_goals rfl

end Sys2Proof.Machine
end

section
/-! PROOFS. The state's rules: what the host reads and writes, and what every step keeps (10_state.md). -/

namespace Sys2Proof.Machine

/-! Reset (R35, R36). -/

/-- Settles O16, field by field. -/
theorem resetValues : Obligations.ResetValues :=
  ⟨⟨rfl, rfl, rfl, rfl, rfl, rfl, rfl, rfl, rfl, rfl, rfl, rfl, rfl, rfl, rfl⟩, rfl, rfl, rfl⟩

/-- Settles O20: the memories list nothing, and no register holds anything. -/
theorem resetMeetsTheInvariant : Obligations.ResetMeetsTheInvariant := by
  obtain ⟨hbyte, hpix, hpal⟩ := State.reset_memories_wf
  exact
    { status := .inl rfl
      causeIdle := fun _ => rfl
      causeFaulted := fun h => absurd h (by decide)
      cfg := rfl
      memories := ⟨hbyte, hpix, hpal, List.forall_mem_nil _, List.forall_mem_nil _, List.forall_mem_nil _⟩
      drawsFresh := Nat.one_pos }

/-! The host's accesses (R14, R31 to R33). -/

theorem tooWide_write {n : Nat} {v : BitVec 64} : (HostAction.write n v).tooWide = none ↔ v.toNat < 2 ^ portWidth n := by
  simp [HostAction.tooWide]

theorem setWidth_issued (w : CmdWord) : (w.setWidth 64).setWidth 32 = w :=
  (BitVec.setWidth_setWidth_of_le w (by decide)).trans (BitVec.setWidth_eq w)

/-- Settles O6: the word fits its port, so the step issues it. -/
theorem stepRunsTheDecodedCommand : Obligations.StepRunsTheDecodedCommand := by
  intro s w i rest hin hbusy hf hd
  have hw : (w.setWidth 64).toNat < 2 ^ portWidth 0 := by
    rw [BitVec.toNat_setWidth]
    exact Nat.lt_of_le_of_lt (Nat.mod_le _ _) w.isLt
  rw [step_eq_act hin hbusy (by simp [hf]) (tooWide_write.2 hw) rfl, act_write_cmd, setWidth_issued]
  exact issue_of_decode hf hd

/-- R31's table agrees with what the host reads. -/
theorem State.readReg_of_mem_registerMap (s : State) : ∀ p ∈ s.registerMap, s.readReg p.1 = p.2 := by
  simp [State.registerMap, State.readReg]

/-- `CMD` and the numbers that do not exist read 0 (R31). -/
theorem State.readReg_of_absent (s : State) {n : Nat} (hn : n = 0 ∨ n = 15 ∨ 35 ≤ n) : s.readReg n = 0 := by
  unfold State.readReg
  split
  any_goals omega
  rfl

/-- Settles O9: a read is ignored in no state, and stops only beyond a memory. -/
theorem hostReadsAreServed : Obligations.HostReadsAreServed := by
  intro s rest hbusy
  refine ⟨fun n hin => ⟨?_, s.readReg_of_absent, fun v => s.readReg_of_mem_registerMap (n, v)⟩,
    fun a hin ha => ?_, fun i hin hi => ?_, fun i hin hi => ?_⟩
  · exact step_eq_act hin hbusy (Bool.and_false _) rfl rfl
  · exact step_eq_act hin hbusy (Bool.and_false _) rfl (by simp [HostAction.beyond, ha])
  · exact step_eq_act hin hbusy (Bool.and_false _) rfl (by simp [HostAction.beyond, hi])
  · exact step_eq_act hin hbusy (Bool.and_false _) rfl (by simp [HostAction.beyond, hi])

/-- Settles O17, by the rules of a register write. -/
theorem hostWritesOneRegister : Obligations.HostWritesOneRegister := by
  intro s n v rest hbusy hf hn hv hin
  refine ⟨({ s with inbox := rest } : State).writeReg n v, ?_, ?_, ?_, ?_, ?_⟩
  · rw [step_eq_act hin hbusy (by simp [hf]) (tooWide_write.2 hv) rfl]
    exact act_write_reg _ hn v
  · exact fun hw => State.readReg_writeReg_self _ hw hv
  · exact fun hw => State.writeReg_of_not_hostWritable _ hw v
  · exact fun k hk => State.readReg_writeReg_of_ne _ hk v
  · simp

theorem Memory.getD_read_write {α : Type} (m : Memory α) (a k : Nat) (v d : α) :
    ((m.write a v).read k).getD d = if k = a then v else (m.read k).getD d := by
  rw [Memory.read_write]
  split <;> rfl

/-- Settles O18: a write to a memory is read back at its own cell alone. -/
theorem hostWritesOneCell : Obligations.HostWritesOneCell := by
  intro s rest hbusy hf
  refine ⟨fun a v hin ha => ⟨{ s with inbox := rest, byteMem := s.byteMem.write a v }, ?_, rfl, fun k => ?_⟩,
    fun i p hin hi => ⟨{ s with inbox := rest, pixMem := s.pixMem.write i p }, ?_, rfl, fun k => ?_⟩,
    fun i c hin hi => ⟨{ s with inbox := rest, palMem := s.palMem.write i c }, ?_, rfl, fun k => ?_⟩⟩
  · exact step_eq_act hin hbusy (by simp [hf]) rfl (by simp [HostAction.beyond, ha])
  · exact Memory.getD_read_write s.byteMem a k v _
  · exact step_eq_act hin hbusy (by simp [hf]) rfl (by simp [HostAction.beyond, hi])
  · exact Memory.getD_read_write s.pixMem i k p _
  · exact step_eq_act hin hbusy (by simp [hf]) rfl (by simp [HostAction.beyond, hi])
  · exact Memory.getD_read_write s.palMem i k c _

/-! `CAUSE` (R16, R160). -/

/-- The value written is `RST`'s word. -/
theorem eq_of_setWidth_eq_rstWord {v : BitVec 64} (hv : v.toNat < 2 ^ portWidth 0) (h : v.setWidth 32 = rstWord) :
    v = 0x000000FF := by
  rw [← setWidth_setWidth_of_toNat_lt hv]
  change (v.setWidth 32).setWidth 64 = _
  rw [h]
  rfl

/-- A command word changes `CAUSE` by raising a first fault, or is the word of `RST`. -/
theorem issue_cause_ne {s t : State} {w : CmdWord} (h : s.issue w = .next t) (hne : t.cause ≠ s.cause) :
    (s.fault = false ∧ t.fault = true) ∨ (t.cause = 0 ∧ w = rstWord) := by
  rcases issue_cases h with ⟨-, -, rfl⟩ | ⟨-, hw, rfl⟩ | ⟨hf, i, u, hd, hu, rfl⟩ | ⟨hf, -, rfl⟩
  · exact absurd rfl hne
  · exact .inr ⟨rfl, hw⟩
  · by_cases hi : i = .rst
    · subst hi
      obtain rfl := Host.Outcome.next.inj hu
      exact .inr ⟨rfl, eq_rstWord_of_decode hd⟩
    · have hfault := (effect_of_exec hu).fault_of_flags_ne hi (.inr hne)
      exact .inl ⟨hf, (State.fault_complete u).trans hfault⟩
  · exact .inl ⟨hf, by simp⟩

/-- Settles O13, by the actions that write `CAUSE`: the reset input and a command word. -/
theorem causeKeepsTheFirstFault : Obligations.CauseKeepsTheFirstFault := by
  intro s t h hne
  rcases step_cases h with ⟨-, rfl⟩ | ⟨a, rest, hin, hp⟩
  · exact absurd rfl hne
  rcases perform_cases hp with ⟨-, -, rfl⟩ | ⟨-, hw, -, hact⟩
  · exact absurd rfl hne
  cases a with
  | reset =>
    obtain rfl := Host.Outcome.next.inj hact
    exact .inr ⟨rfl, rest, .inl hin⟩
  | write n v =>
    by_cases hn : n = 0
    · subst hn
      rcases issue_cause_ne hact hne with hraise | ⟨hc, hrst⟩
      · exact .inl hraise
      · exact .inr ⟨hc, rest, .inr (eq_of_setWidth_eq_rstWord (tooWide_write.1 hw) hrst ▸ hin)⟩
    · rw [act_write_reg _ hn] at hact
      obtain rfl := Host.Outcome.next.inj hact
      exact absurd (State.writeReg_cause _ n v) hne
  | _ =>
    obtain rfl := Host.Outcome.next.inj hact
    exact absurd rfl hne

/-! The invariant (R15 to R17, R37, R159). -/

/-- `STATUS` and `CAUSE` between commands: both 0, or `FAULT` alone and one of the causes (R15, R16). -/
def State.FlagsOk (s : State) : Prop :=
  (s.status = 0 ∧ s.cause = 0) ∨ (s.status = 2 ∧ ∃ c, s.cause = causeCode c)

theorem State.inv_iff {s : State} :
    s.Inv ↔ s.FlagsOk ∧ s.cfg &&& ~~~cfgMask = 0 ∧ s.MemoriesOk ∧ s.memDraw < s.draws := by
  constructor
  · rintro ⟨hstatus, hidle, hfaulted, hcfg, hm, hd⟩
    refine ⟨?_, hcfg, hm, hd⟩
    rcases hstatus with hs | hs
    · exact .inl ⟨hs, hidle (by simp [State.fault, hs])⟩
    · exact .inr ⟨hs, hfaulted (by simp [State.fault, hs])⟩
  · rintro ⟨⟨hs, hc⟩ | ⟨hs, hc⟩, hcfg, hm, hd⟩
    · exact ⟨.inl hs, fun _ => hc, fun hf => by simp [State.fault, hs] at hf, hcfg, hm, hd⟩
    · exact ⟨.inr hs, fun hf => by simp [State.fault, hs] at hf, fun _ => hc, hcfg, hm, hd⟩

theorem State.FlagsOk.of_kept {s t : State} (h : s.FlagsOk) (hs : t.status = s.status) (hc : t.cause = s.cause) :
    t.FlagsOk := by
  rwa [State.FlagsOk, hs, hc]

theorem State.FlagsOk.busy {s : State} (h : s.FlagsOk) : s.busy = false := by
  rcases h with ⟨hs, -⟩ | ⟨hs, -⟩ <;> simp [State.busy, hs]

theorem State.FlagsOk.of_not_fault {s : State} (h : s.FlagsOk) (hf : s.fault = false) : s.status = 0 ∧ s.cause = 0 := by
  rcases h with h | ⟨hs, -⟩
  · exact h
  · simp [State.fault, hs] at hf

/-- Settles O22. -/
theorem hostIsNeverRefusedAsBusy : Obligations.HostIsNeverRefusedAsBusy := by
  intro s hs
  have hbusy := (State.inv_iff.1 hs).1.busy
  cases hin : s.inbox with
  | nil => simp [step, State.takeAction, hin]
  | cons a rest =>
    rw [step_of_inbox hin]
    exact perform_ne_busy (s := { s with inbox := rest }) hbusy a

theorem State.MemoriesOk.of_kept {s t : State} (h : s.MemoriesOk) (hb : t.byteMem = s.byteMem)
    (hp : t.pixMem = s.pixMem) (hl : t.palMem = s.palMem) : t.MemoriesOk := by
  rw [State.memoriesOk_iff] at h ⊢
  rwa [hb, hp, hl]

/-- `RST` gives the invariant whatever the registers held (R145, R165). -/
theorem clearRegisters_complete_inv {s : State} (hm : s.MemoriesOk) (hd : s.memDraw < s.draws) :
    s.clearRegisters.complete.Inv :=
  State.inv_iff.2 ⟨.inl ⟨by simp [statusIdle], rfl⟩, by simp, hm.of_kept rfl rfl rfl, hd⟩

/-- The hardware reset gives the invariant in every state (R177). -/
theorem hardReset_inv (s : State) : s.hardReset.Inv :=
  State.inv_iff.2 ⟨.inl ⟨rfl, rfl⟩, by simp, resetMeetsTheInvariant.memories.of_kept rfl rfl rfl, Nat.lt_succ_self _⟩

/-- When a command issued without a fault has left `STATUS` and `CAUSE` or raised a fault, they are legal once `BUSY` has
fallen (R15, R16). -/
theorem flagsOk_complete {s u : State} (hs : s.FlagsOk) (hf : s.fault = false)
    (hu : (u.status = s.begin.status ∧ u.cause = s.begin.cause) ∨
      ∃ c, u.status = statusFaulted s.begin.status ∧ u.cause = if s.begin.fault then s.begin.cause else causeCode c) :
    u.complete.FlagsOk := by
  obtain ⟨hstatus, hcause⟩ := hs.of_not_fault hf
  rw [State.FlagsOk, State.complete_status, State.complete_cause]
  rcases hu with ⟨hst, hc⟩ | ⟨c, hst, hc⟩
  · rw [hst, hc, State.begin_status, hstatus]
    exact .inl ⟨rfl, hcause⟩
  · rw [hst, hc, State.begin_status, hstatus, State.fault_begin, hf]
    exact .inr ⟨rfl, c, rfl⟩

/-- A command word keeps the invariant. -/
theorem issue_keeps_inv {s t : State} {w : CmdWord} (hs : s.Inv) (h : s.issue w = .next t) : t.Inv := by
  obtain ⟨hflags, hcfg, hm, hd⟩ := State.inv_iff.1 hs
  rcases issue_cases h with ⟨-, -, rfl⟩ | ⟨-, -, rfl⟩ | ⟨hf, i, u, -, hu, rfl⟩ | ⟨hf, -, rfl⟩
  · exact hs
  · exact clearRegisters_complete_inv hm hd
  · by_cases hi : i = .rst
    · subst hi
      obtain rfl := Host.Outcome.next.inj hu
      exact clearRegisters_complete_inv (hm.of_kept rfl rfl rfl) hd
    · have he := effect_of_exec hu
      have hcfg' : u.cfg = s.cfg := he.cfg.resolve_right fun hr => hi hr.1
      obtain ⟨-, -, hdraw⟩ := he.hostSide
      have hm' := he.memoriesOk (hm.of_kept rfl rfl rfl)
      refine State.inv_iff.2 ⟨flagsOk_complete hflags hf (he.flags hi), ?_, hm'.of_kept rfl rfl rfl, ?_⟩
      · rwa [State.complete_cfg, hcfg']
      · exact hdraw.trans_lt (hd.trans_le he.draws_le)
  · exact State.inv_iff.2 ⟨flagsOk_complete hflags hf (.inr ⟨.illegalCommand, rfl, rfl⟩), hcfg,
      hm.of_kept rfl rfl rfl, hd⟩

/-- A register write keeps the invariant: the hardwired bits of `CFG` are masked (R17). -/
theorem writeReg_keeps_inv {s : State} (hs : s.Inv) (n : Nat) (v : BitVec 64) : (s.writeReg n v).Inv := by
  obtain ⟨hflags, hcfg, hm, hd⟩ := State.inv_iff.1 hs
  refine State.inv_iff.2 ⟨hflags.of_kept (by simp) (by simp), ?_, hm.of_kept (by simp) (by simp) (by simp), by simpa⟩
  rw [State.writeReg_cfg]
  split
  · rw [BitVec.and_assoc, BitVec.and_not_self]
    exact BitVec.and_zero
  · exact hcfg

/-- An action that takes effect keeps the invariant. -/
theorem act_keeps_inv {s t : State} {a : HostAction} (hs : s.Inv) (hb : a.beyond = none) (h : s.act a = .next t) :
    t.Inv := by
  obtain ⟨hflags, hcfg, hm, hd⟩ := State.inv_iff.1 hs
  obtain ⟨hbyte, hpix, hpal⟩ := State.memoriesOk_iff.1 hm
  cases a with
  | write n v =>
    by_cases hn : n = 0
    · subst hn
      exact issue_keeps_inv hs h
    · rw [act_write_reg _ hn] at h
      obtain rfl := Host.Outcome.next.inj h
      exact writeReg_keeps_inv hs n v
  | reset =>
    obtain rfl := Host.Outcome.next.inj h
    exact hardReset_inv s
  | writeByte k v =>
    obtain rfl := Host.Outcome.next.inj h
    have hk : k < Config.byteSize := by simpa [HostAction.beyond] using hb
    exact State.inv_iff.2 ⟨hflags, hcfg, State.memoriesOk_iff.2 ⟨hbyte.write hk v, hpix, hpal⟩, hd⟩
  | writePix k p =>
    obtain rfl := Host.Outcome.next.inj h
    have hk : k < Config.pixCap := by simpa [HostAction.beyond] using hb
    exact State.inv_iff.2 ⟨hflags, hcfg, State.memoriesOk_iff.2 ⟨hbyte, hpix.write hk p, hpal⟩, hd⟩
  | writePal k c =>
    obtain rfl := Host.Outcome.next.inj h
    have hk : k < Config.palCap := by simpa [HostAction.beyond] using hb
    exact State.inv_iff.2 ⟨hflags, hcfg, State.memoriesOk_iff.2 ⟨hbyte, hpix, hpal.write hk c⟩, hd⟩
  | _ =>
    obtain rfl := Host.Outcome.next.inj h
    exact State.inv_iff.2 ⟨hflags, hcfg, hm.of_kept rfl rfl rfl, hd⟩

/-- Settles O21: waiting and an ignored action keep the state, and every action that takes effect keeps the invariant. -/
theorem stepKeepsTheInvariant : Obligations.StepKeepsTheInvariant := by
  intro s t hs h
  rcases step_cases h with ⟨-, rfl⟩ | ⟨a, rest, -, hp⟩
  · exact hs
  have hrest : ({ s with inbox := rest } : State).Inv := by
    obtain ⟨hflags, hcfg, hm, hd⟩ := State.inv_iff.1 hs
    exact State.inv_iff.2 ⟨hflags, hcfg, hm.of_kept rfl rfl rfl, hd⟩
  rcases perform_cases hp with ⟨-, -, rfl⟩ | ⟨-, -, hb, hact⟩
  · exact hrest
  · exact act_keeps_inv hrest hb hact

end Sys2Proof.Machine
end

section
/-! PROOFS. The model's own stops of a host action, in the order in which `State.perform` tests for them (10_state.md R32,
20_memory.md R37, 50_host_interface.md R148; log 11 to 13). -/

namespace Sys2Proof.Machine

theorem allowedWhileBusy_iff (a : HostAction) : a.allowedWhileBusy = true ↔ a = .reset ∨ a = .read 1 := by
  cases a <;> simp [HostAction.allowedWhileBusy]

section
variable {s : State} {a : HostAction} {rest : List HostAction} (hin : s.inbox = a :: rest)
include hin

theorem step_refused_busy (hbusy : s.busy = true) (ha : a.allowedWhileBusy = false) :
    step s = .refused .hostAccessWhileBusy := by
  have hbusy' : ({ s with inbox := rest } : State).busy = true := hbusy
  rw [step_of_inbox hin, State.perform, hbusy', ha]
  rfl

theorem step_refused_tooWide {n : Nat} (hbusy : s.busy = false) (hw : a.tooWide = some n) :
    step s = .refused (.valueWiderThanPort n) := by
  have hbusy' : ({ s with inbox := rest } : State).busy = false := hbusy
  rw [step_of_inbox hin, State.perform, hbusy', hw]
  rfl

theorem step_fault_beyond {space : Space} {k : Nat} (hbusy : s.busy = false)
    (hf : (s.fault && a.ignoredInFault) = false) (hw : a.tooWide = none) (hb : a.beyond = some (space, k)) :
    step s = .fault (.noSuchCell space k) := by
  have hbusy' : ({ s with inbox := rest } : State).busy = false := hbusy
  have hf' : (({ s with inbox := rest } : State).fault && a.ignoredInFault) = false := hf
  rw [step_of_inbox hin, State.perform, hbusy', hf', hw, hb]
  rfl

end

/-- Settles O19: a read is never ignored in the fault state, a write only there, and `BUSY` leaves the host two actions. -/
theorem hostAccessStops : Obligations.HostAccessStops := by
  intro s rest
  refine ⟨fun k hbusy => ⟨fun hk hin => ?_, fun hk hin => ?_, fun hk hin => ?_⟩,
    fun k hbusy hf => ⟨fun v hk hin => ?_, fun p hk hin => ?_, fun c hk hin => ?_⟩,
    fun n v hbusy hin hv => ?_, fun a hbusy hreset hread hin => ?_⟩
  · exact step_fault_beyond hin hbusy (Bool.and_false _) rfl (by simp [HostAction.beyond, hk])
  · exact step_fault_beyond hin hbusy (Bool.and_false _) rfl (by simp [HostAction.beyond, hk])
  · exact step_fault_beyond hin hbusy (Bool.and_false _) rfl (by simp [HostAction.beyond, hk])
  · exact step_fault_beyond hin hbusy (by simp [hf]) rfl (by simp [HostAction.beyond, hk])
  · exact step_fault_beyond hin hbusy (by simp [hf]) rfl (by simp [HostAction.beyond, hk])
  · exact step_fault_beyond hin hbusy (by simp [hf]) rfl (by simp [HostAction.beyond, hk])
  · exact step_refused_tooWide hin hbusy (if_neg hv.not_gt)
  · refine step_refused_busy hin hbusy (Bool.eq_false_iff.2 fun ha => ?_)
    exact ((allowedWhileBusy_iff a).1 ha).elim hreset hread

end Sys2Proof.Machine
end

section
/-! PROOFS. The encoding: `decode` and `encode` are inverse to each other, R66's formula, and the words that are reserved
(30_encoding.md R57 to R66). -/

namespace Sys2Proof.Machine

/-! A word and its four bytes (R57, R66). -/

section
variable (op a b : Byte)

theorem encodeFields_toNat :
    (encodeFields op a b).toNat = (b.toNat * 2 ^ 8 + a.toNat) * 2 ^ 8 + op.toNat := by
  simp only [encodeFields, toNat_append_byte, BitVec.toNat_ofNat]
  omega

theorem op_encodeFields : (encodeFields op a b).op = op := by
  apply BitVec.eq_of_toNat_eq
  rw [CmdWord.op, BitVec.extractLsb'_toNat, encodeFields_toNat]
  omega

theorem a_encodeFields : (encodeFields op a b).a = a := by
  apply BitVec.eq_of_toNat_eq
  rw [CmdWord.a, BitVec.extractLsb'_toNat, encodeFields_toNat, Nat.shiftRight_eq_div_pow]
  omega

theorem b_encodeFields : (encodeFields op a b).b = b := by
  apply BitVec.eq_of_toNat_eq
  rw [CmdWord.b, BitVec.extractLsb'_toNat, encodeFields_toNat, Nat.shiftRight_eq_div_pow]
  omega

theorem z_encodeFields : (encodeFields op a b).z = 0#8 := by
  apply BitVec.eq_of_toNat_eq
  rw [CmdWord.z, BitVec.extractLsb'_toNat, encodeFields_toNat, Nat.shiftRight_eq_div_pow, BitVec.toNat_ofNat]
  omega

theorem decode_encodeFields : decode (encodeFields op a b) = decodeFields op a b := by
  simp [decode, op_encodeFields, a_encodeFields, b_encodeFields, z_encodeFields]

theorem encodeFields_eq_ofNat :
    encodeFields op a b = BitVec.ofNat 32 (op.toNat ||| a.toNat <<< 8 ||| b.toNat <<< 16) := by
  apply BitVec.eq_of_toNat_eq
  have hor : op.toNat ||| a.toNat <<< 8 ||| b.toNat <<< 16 = (encodeFields op a b).toNat := by
    rw [encodeFields, BitVec.toNat_append, BitVec.toNat_append, BitVec.toNat_append, Nat.shiftLeft_or_distrib,
      Nat.shiftLeft_or_distrib, ← Nat.shiftLeft_add]
    simp [Nat.or_comm, Nat.or_assoc, ← Nat.shiftLeft_add]
  rw [hor, BitVec.ofNat_toNat, BitVec.setWidth_eq]

end

theorem encodeFields_bytes {w : CmdWord} (hz : w.z = 0) : encodeFields w.op w.a w.b = w := by
  have h := CmdWord.append_bytes w
  rwa [hz] at h

theorem decode_of_z_eq_zero {w : CmdWord} (hz : w.z = 0) : decode w = decodeFields w.op w.a w.b :=
  if_neg (not_not.2 hz)

theorem decode_of_z_ne_zero {w : CmdWord} (hz : w.z ≠ 0) : decode w = .error .nonZeroZ := if_pos hz

/-! The two round trips (R59, R60). -/

/-- Settles O1: the decoder finds the fields that `encode` put in the word, and the operands pass the checks of their row. -/
theorem decodeOfEncode : Obligations.DecodeOfEncode := by
  intro i hwf
  cases i with
  | pack8 | pack16 | pack32 | pack64 => exact (decode_encodeFields ..).trans (decodePack_eq_ok.2 ⟨rfl, hwf, rfl⟩)
  | unpk8 | unpk16 | unpk32 | unpk64 => exact (decode_encodeFields ..).trans (decodeUnpk_eq_ok.2 ⟨hwf, rfl⟩)
  | _ => exact decode_encodeFields _ 0 0

theorem eq_ofNat_of_toNat_eq {op : Byte} {n : Nat} (h : op.toNat = n) : op = BitVec.ofNat 8 n := by
  rw [← h, BitVec.ofNat_toNat, BitVec.setWidth_eq]

/-- An instruction read from three fields is well-formed, and its word is made of those fields: a row uses each of them as
an operand, or admits one value of it. -/
theorem encode_of_decodeFields {op a b : Byte} {i : Instr} (h : decodeFields op a b = .ok i) :
    i.wellFormed = true ∧ encode i = encodeFields op a b := by
  unfold decodeFields at h
  split at h
  iterate 4
    next hop =>
      obtain ⟨rfl, hwf, rfl⟩ := decodePack_eq_ok.1 h
      exact ⟨hwf, eq_ofNat_of_toNat_eq hop ▸ rfl⟩
  iterate 4
    next hop =>
      obtain ⟨hwf, rfl⟩ := decodeUnpk_eq_ok.1 h
      exact ⟨hwf, eq_ofNat_of_toNat_eq hop ▸ rfl⟩
  iterate 13
    next hop =>
      obtain ⟨rfl, rfl, rfl⟩ := decodePlain_eq_ok.1 h
      exact ⟨rfl, eq_ofNat_of_toNat_eq hop ▸ rfl⟩
  · cases h

/-- Settles O2. -/
theorem encodeOfDecode : Obligations.EncodeOfDecode := by
  intro w i h
  have hz : w.z = 0 := by
    by_contra hz
    rw [decode_of_z_ne_zero hz] at h
    cases h
  rw [decode_of_z_eq_zero hz] at h
  obtain ⟨hwf, he⟩ := encode_of_decodeFields h
  exact ⟨hwf, he.trans (encodeFields_bytes hz)⟩

/-! R66's formula, and the sample words. -/

/-- Settles O3: each row is R66's formula at its own opcode. -/
theorem encodingFormula : Obligations.EncodingFormula := by
  refine ⟨fun off cnt => ?_, ?_, by decide⟩
  · exact ⟨encodeFields_eq_ofNat 0x10 off 0, encodeFields_eq_ofNat 0x11 off 0, encodeFields_eq_ofNat 0x12 off 0,
      encodeFields_eq_ofNat 0x13 off 0, encodeFields_eq_ofNat 0x14 off cnt, encodeFields_eq_ofNat 0x15 off cnt,
      encodeFields_eq_ofNat 0x16 off cnt, encodeFields_eq_ofNat 0x17 off cnt⟩
  · refine ⟨?_, ?_, ?_, ?_, ?_, ?_, ?_, ?_, ?_, ?_, ?_, ?_, ?_⟩ <;> exact encodeFields_eq_ofNat _ 0 0

/-- Settles O5: each word is that of the instruction it stands for, which is well-formed. -/
theorem sampleWordsDecode : Obligations.SampleWordsDecode :=
  ⟨decodeOfEncode (.pack8 4) rfl, decodeOfEncode (.pack32 29) rfl, decodeOfEncode (.unpk64 8 60) rfl,
    decodeOfEncode (.unpk16 5 5) rfl, decodeOfEncode .dec16 rfl, decodeOfEncode .pxres rfl, decodeOfEncode .clenc rfl,
    decodeOfEncode .clcmp rfl, decodeOfEncode .gsenc rfl, decodeOfEncode .rst rfl⟩

/-! The reserved words (R61, R63, R64). -/

theorem exists_decodePack_eq_ok {make : Byte → Instr} {W : Nat} {a b : Byte} :
    (∃ i, decodePack make W a b = .ok i) ↔ b = 0 ∧ a.toNat < W := by
  simp [decodePack_eq_ok, packOperandOk]

theorem exists_decodeUnpk_eq_ok {make : Byte → Byte → Instr} {W : Nat} {a b : Byte} :
    (∃ i, decodeUnpk make W a b = .ok i) ↔ a.toNat < W ∧ 1 ≤ b.toNat ∧ b.toNat ≤ W := by
  simp [decodeUnpk_eq_ok, unpkOperandsOk, and_assoc]

theorem exists_decodePlain_eq_ok {j : Instr} {a b : Byte} : (∃ i, decodePlain j a b = .ok i) ↔ a = 0 ∧ b = 0 := by
  simp [decodePlain_eq_ok]

/-- The fields that mean an instruction: those of a `PACKw`, of an `UNPKw`, or of a command without operands. -/
theorem exists_decodeFields_eq_ok {op a b : Byte} : (∃ i, decodeFields op a b = .ok i) ↔
    (0x10 ≤ op.toNat ∧ op.toNat ≤ 0x13) ∧ b = 0 ∧ a.toNat < opcodeWidth op ∨
    (0x14 ≤ op.toNat ∧ op.toNat ≤ 0x17) ∧ a.toNat < opcodeWidth op ∧ 1 ≤ b.toNat ∧ b.toNat ≤ opcodeWidth op ∨
    op.toNat ∈ plainOpcodes ∧ a = 0 ∧ b = 0 := by
  unfold decodeFields
  split
  iterate 4 next hop => rw [exists_decodePack_eq_ok]; simp [hop, opcodeWidth, plainOpcodes]
  iterate 4 next hop => rw [exists_decodeUnpk_eq_ok]; simp [hop, opcodeWidth, plainOpcodes]
  iterate 13 next hop => rw [exists_decodePlain_eq_ok]; simp [hop, plainOpcodes]
  · refine iff_of_false (by simp) ?_
    simp only [imp_false] at *
    rintro (⟨hpack, -⟩ | ⟨hunpk, -⟩ | ⟨hplain, -⟩)
    · omega
    · omega
    · simp only [plainOpcodes, List.mem_cons, List.not_mem_nil, or_false] at hplain
      omega

/-- No command without operands has the opcode of a bit-field command (R59). -/
theorem not_bitField_of_mem_plainOpcodes {n : Nat} (h : n ∈ plainOpcodes) : ¬ (0x10 ≤ n ∧ n ≤ 0x17) := by
  revert n
  decide

/-- Settles O4: with `Z` = 0, in each family of opcodes one clause of R61 says what the operand checks refuse. -/
theorem refusedWordsAreTheReservedOnes : Obligations.RefusedWordsAreTheReservedOnes := by
  intro w
  rw [← not_exists, ReservedWord]
  by_cases hz : w.z = 0
  · rw [decode_of_z_eq_zero hz, exists_decodeFields_eq_ok]
    by_cases hplain : w.op.toNat ∈ plainOpcodes
    · have hbit := not_bitField_of_mem_plainOpcodes hplain
      grind
    · grind
  · exact iff_of_true (by simp [decode_of_z_ne_zero hz]) (.inl hz)

/-! A reserved word at the block (R61). -/

theorem issue_of_decode_error {s : State} {w : CmdWord} {e : DecodeError} (hf : s.fault = false)
    (hd : decode w = .error e) : s.issue w = .next (s.begin.raise .illegalCommand).complete := by
  simp [State.issue, hf, hd, completed]

theorem decode_error_of_reservedWord {w : CmdWord} (h : ReservedWord w) : ∃ e, decode w = .error e := by
  cases hd : decode w with
  | error e => exact ⟨e, rfl⟩
  | ok i => exact absurd hd ((refusedWordsAreTheReservedOnes w).2 h i)

/-- The step of an idle block without a fault issues the word that the host writes to `CMD`: it fits its port. -/
theorem step_eq_issue {s : State} {w : CmdWord} {rest : List HostAction}
    (hin : s.inbox = .write 0 (w.setWidth 64) :: rest) (hbusy : s.busy = false) (hf : s.fault = false) :
    step s = ({ s with inbox := rest } : State).issue w := by
  have hw : (w.setWidth 64).toNat < 2 ^ portWidth 0 := by
    rw [BitVec.toNat_setWidth]
    exact Nat.lt_of_le_of_lt (Nat.mod_le _ _) w.isLt
  rw [step_eq_act hin hbusy (by simp [hf]) (tooWide_write.2 hw) rfl, act_write_cmd, setWidth_issued]

/-- What `IllegalCommand` leaves, once `BUSY` has fallen, of a state with no flag set (R15, R160). -/
theorem complete_raise_begin_of_status_eq_zero {s : State} (hs : s.status = 0) :
    (s.begin.raise .illegalCommand).complete = { s with status := 0x02, cause := 5 } := by
  have hf : s.begin.fault = false := by rw [State.fault_begin, State.fault, hs]; rfl
  simp only [State.complete, State.raise, hf]
  simp [State.begin, hs, statusIdle, statusFaulted, statusBusy, causeCode]

/-- Settles O7: the invariant shuts out every flag, so that `STATUS` = 2 is the fault alone. -/
theorem reservedWordRaisesIllegalCommand : Obligations.ReservedWordRaisesIllegalCommand := by
  intro s w rest hinv hf hin hr
  obtain ⟨hflags, -⟩ := State.inv_iff.1 hinv
  obtain ⟨hs, -⟩ := hflags.of_not_fault hf
  obtain ⟨e, hd⟩ := decode_error_of_reservedWord hr
  rw [step_eq_issue hin hflags.busy hf, issue_of_decode_error (s := { s with inbox := rest }) hf hd,
    complete_raise_begin_of_status_eq_zero (s := { s with inbox := rest }) hs]

end Sys2Proof.Machine
end

section
/-! PROOFS. The bit-field commands: one equation for the four `PACKw` and one for the four `UNPKw`, and `pack` and `unpack`
bit by bit (40_bitfield.md R68 to R81). -/

namespace Sys2Proof.Machine

/-! `pack` and `unpack` bit by bit (R68, R75, R80). -/

section
variable {W : Nat} (hW : W ≤ 64)
include hW

theorem getLsbD_packW (word value : BitVec 64) (off j : Nat) : (packW W word value off).getLsbD j =
    (decide (j < W) && (word.getLsbD j || (decide (off ≤ j) && value.getLsbD (j - off)))) := by
  by_cases hj : j < W
  · have hj64 : j < 64 := by omega
    simp [packW, hj, hj64, ← decide_not]
  · simp [packW, hj]

theorem getLsbD_unpackW (word : BitVec 64) {cnt : Nat} (hc : 1 ≤ cnt) (off j : Nat) :
    (unpackW W word cnt off).getLsbD j =
      (decide (j < cnt) && decide (off + j < W) && word.getLsbD (off + j)) := by
  rw [BitVec.getLsbD, unpackW_toNat hW word hc, Nat.testBit_mod_two_pow, Nat.testBit_shiftRight,
    Nat.testBit_mod_two_pow, Bool.and_assoc, BitVec.getLsbD]

/-- R81: a field that lies inside the word comes back from a word that held nothing else. -/
theorem unpackW_packW_zero {value : BitVec 64} {cnt off : Nat} (hc : 1 ≤ cnt) (hfit : off + cnt ≤ W)
    (hv : value.toNat < 2 ^ cnt) : unpackW W (packW W 0 value off) cnt off = value := by
  refine BitVec.eq_of_getLsbD_eq fun j _ => ?_
  rw [getLsbD_unpackW hW _ hc, getLsbD_packW hW]
  by_cases hj : j < cnt
  · have hin : off + j < W := by omega
    simp [hj, hin]
  · have hzero : value.getLsbD j = false :=
      Nat.testBit_lt_two_pow (Nat.lt_of_lt_of_le hv (Nat.pow_le_pow_right (by decide) (Nat.le_of_not_lt hj)))
    simp [hj, hzero]

end

/-! The commands of the four widths (R71 to R74, R76 to R79). -/

/-- Each `PACKw` with its width. -/
def packRows : List (Nat × (Byte → Instr)) :=
  [(8, Instr.pack8), (16, Instr.pack16), (32, Instr.pack32), (64, Instr.pack64)]

/-- Each `UNPKw` with its width. -/
def unpkRows : List (Nat × (Byte → Byte → Instr)) :=
  [(8, Instr.unpk8), (16, Instr.unpk16), (32, Instr.unpk32), (64, Instr.unpk64)]

theorem exec_of_mem_packRows {W : Nat} {i : Byte → Instr} (h : (W, i) ∈ packRows) (off : Byte) (s : State) :
    W ≤ 64 ∧ exec (i off) s = .next { s with word := packW W s.word s.val off.toNat } := by
  simp only [packRows, List.mem_cons, Prod.mk.injEq, List.not_mem_nil, or_false] at h
  obtain ⟨rfl, rfl⟩ | ⟨rfl, rfl⟩ | ⟨rfl, rfl⟩ | ⟨rfl, rfl⟩ := h <;> exact ⟨by decide, rfl⟩

theorem exec_of_mem_unpkRows {W : Nat} {i : Byte → Byte → Instr} (h : (W, i) ∈ unpkRows) (cnt off : Byte) (s : State) :
    W ≤ 64 ∧ exec (i cnt off) s = .next { s with val := unpackW W s.word cnt.toNat off.toNat } := by
  simp only [unpkRows, List.mem_cons, Prod.mk.injEq, List.not_mem_nil, or_false] at h
  obtain ⟨rfl, rfl⟩ | ⟨rfl, rfl⟩ | ⟨rfl, rfl⟩ | ⟨rfl, rfl⟩ := h <;> exact ⟨by decide, rfl⟩

/-- Settles O29: each width's `PACKw` writes `packW`, as a number. -/
theorem packResult : Obligations.PackResult := by
  intro W i hi off s _
  obtain ⟨hW, hexec⟩ := exec_of_mem_packRows hi off s
  exact ⟨_, hexec, packW_toNat hW ..⟩

/-- Settles O30: each width's `UNPKw` writes `unpackW`, as a number; the mask of R69 needs `cnt` from 1 up. -/
theorem unpackResult : Obligations.UnpackResult := by
  intro W i hi cnt off s _ hc _
  obtain ⟨hW, hexec⟩ := exec_of_mem_unpkRows hi cnt off s
  exact ⟨_, hexec, unpackW_toNat hW _ hc _⟩

/-- Settles O31: each width's `PACKw` writes `packW`, bit by bit. -/
theorem packBitByBit : Obligations.PackBitByBit := by
  intro W i hi off s _
  obtain ⟨hW, hexec⟩ := exec_of_mem_packRows hi off s
  exact ⟨_, hexec, getLsbD_packW hW _ _ _⟩

/-- Settles O32: each width's `UNPKw` writes `unpackW`, bit by bit. -/
theorem unpackBitByBit : Obligations.UnpackBitByBit := by
  intro W i hi cnt off s _ hc _
  obtain ⟨hW, hexec⟩ := exec_of_mem_unpkRows hi cnt off s
  exact ⟨_, hexec, getLsbD_unpackW hW _ hc _⟩

/-- R81's commands are the two of one width. -/
theorem mem_packRows_and_unpkRows {W : Nat} {p : Byte → Instr} {u : Byte → Byte → Instr}
    (h : (W, p, u) ∈ [(8, Instr.pack8, Instr.unpk8), (16, Instr.pack16, Instr.unpk16), (32, Instr.pack32, Instr.unpk32),
      (64, Instr.pack64, Instr.unpk64)]) : (W, p) ∈ packRows ∧ (W, u) ∈ unpkRows :=
  ⟨List.mem_map_of_mem (f := fun r => (r.1, r.2.1)) h, List.mem_map_of_mem (f := fun r => (r.1, r.2.2)) h⟩

/-- Settles O33: `PACKw` leaves `VAL` and a `WORD` that holds its field alone, which `UNPKw` reads back. -/
theorem packThenUnpackRestores : Obligations.PackThenUnpackRestores := by
  intro W p u hpu cnt off s hword hc hfit hv
  obtain ⟨hp, hu⟩ := mem_packRows_and_unpkRows hpu
  obtain ⟨hW, hpack⟩ := exec_of_mem_packRows hp off s
  obtain ⟨-, hunpk⟩ := exec_of_mem_unpkRows hu cnt off { s with word := packW W s.word s.val off.toNat }
  refine ⟨_, _, hpack, hunpk, ?_⟩
  rw [hword]
  exact unpackW_packW_zero hW hc hfit hv

end Sys2Proof.Machine
end

section
/-! PROOFS. The 16-bit colour commands: the channels of a decoded colour, the fields of an encoded word, and the two
laws of one after the other (41_color16.md R84 to R88). -/

namespace Sys2Proof.Machine

theorem exec_dec16 (s : State) : exec .dec16 s = .next { s with col := decode16 s.pixw } := rfl

theorem exec_enc16 (s : State) : exec .enc16 s = .next { s with pixw := encode16 s.col } := rfl

/-! The channels that `decode16` gives, by the fields of its word (R85). -/

theorem colorR_decode16_toNat (w : BitVec 16) : (colorR (decode16 w)).toNat = (w.extractLsb' 0 5).toNat * 8 := by
  rw [decode16, colorR_rgba, channel8_toNat]

theorem colorG_decode16_toNat (w : BitVec 16) : (colorG (decode16 w)).toNat = (w.extractLsb' 5 5).toNat * 8 := by
  rw [decode16, colorG_rgba, channel8_toNat]

theorem colorB_decode16_toNat (w : BitVec 16) : (colorB (decode16 w)).toNat = (w.extractLsb' 10 5).toNat * 8 := by
  rw [decode16, colorB_rgba, channel8_toNat]

theorem colorA_decode16_toNat (w : BitVec 16) : (colorA (decode16 w)).toNat = if w.getLsbD 15 then 255 else 0 := by
  rw [decode16, colorA_rgba, apply_ite BitVec.toNat]
  rfl

/-! The fields of the word that `encode16` gives, by the channels of its colour: each quotient stays inside its field
(R86). -/

theorem encode16_red_toNat (c : Color) : ((encode16 c).extractLsb' 0 5).toNat = (colorR c).toNat / 8 := by
  have hr := (colorR c).isLt
  rw [BitVec.extractLsb'_toNat, Nat.shiftRight_eq_div_pow, encode16_toNat]
  omega

theorem encode16_green_toNat (c : Color) : ((encode16 c).extractLsb' 5 5).toNat = (colorG c).toNat / 8 := by
  have hr := (colorR c).isLt
  have hg := (colorG c).isLt
  rw [BitVec.extractLsb'_toNat, Nat.shiftRight_eq_div_pow, encode16_toNat]
  omega

theorem encode16_blue_toNat (c : Color) : ((encode16 c).extractLsb' 10 5).toNat = (colorB c).toNat / 8 := by
  have hr := (colorR c).isLt
  have hg := (colorG c).isLt
  have hb := (colorB c).isLt
  rw [BitVec.extractLsb'_toNat, Nat.shiftRight_eq_div_pow, encode16_toNat]
  omega

theorem encode16_alpha_iff (c : Color) : (encode16 c).getLsbD 15 = true ↔ (colorA c).toNat = 255 := by
  have hr := (colorR c).isLt
  have hg := (colorG c).isLt
  have hb := (colorB c).isLt
  have ha := (colorA c).isLt
  rw [BitVec.getLsbD, Nat.testBit_eq_decide_div_mod_eq, decide_eq_true_iff, encode16_toNat]
  omega

/-- R87: the quotients undo the factors, so the fields add up to the word again. -/
theorem encode16_decode16 (w : BitVec 16) : encode16 (decode16 w) = w := by
  have hw := w.isLt
  apply BitVec.eq_of_toNat_eq
  rw [encode16_toNat, decode16_R, decode16_G, decode16_B, decode16_A]
  omega

/-- Settles O34: channel by channel of `decode16`. -/
theorem dec16Result : Obligations.Dec16Result := fun s =>
  ⟨decode16 s.pixw, exec_dec16 s, colorR_decode16_toNat _, colorG_decode16_toNat _, colorB_decode16_toNat _,
    colorA_decode16_toNat _⟩

/-- Settles O35: field by field of `encode16`. -/
theorem enc16Result : Obligations.Enc16Result := fun s =>
  ⟨encode16 s.col, exec_enc16 s, encode16_red_toNat _, encode16_green_toNat _, encode16_blue_toNat _,
    encode16_alpha_iff _⟩

/-- Settles O36: `ENC16` reads the `COL` that `DEC16` wrote. -/
theorem encodeOfDecodedColorIsIdentity : Obligations.EncodeOfDecodedColorIsIdentity := fun s =>
  ⟨_, _, exec_dec16 s, exec_enc16 _, encode16_decode16 s.pixw⟩

/-- Settles O37: `DEC16` reads the `PIXW` that `ENC16` wrote, whose fields hold the quotients of the channels. -/
theorem decodeOfEncodedColorTruncates : Obligations.DecodeOfEncodedColorTruncates := by
  intro s
  refine ⟨_, _, exec_enc16 s, exec_dec16 _, ?_, ?_, ?_, ?_⟩
  · rw [colorR_decode16_toNat, encode16_red_toNat, Nat.div_mul_self_eq_mod_sub_self]
  · rw [colorG_decode16_toNat, encode16_green_toNat, Nat.div_mul_self_eq_mod_sub_self]
  · rw [colorB_decode16_toNat, encode16_blue_toNat, Nat.div_mul_self_eq_mod_sub_self]
  · rw [colorA_decode16_toNat]
    simp only [encode16_alpha_iff]

end Sys2Proof.Machine
end

section
/-! PROOFS. The pixel codec: each command's faults and its result, one equation per way out, and the round trips
(42_pixel_codec.md R91 to R109). -/

namespace Sys2Proof.Machine

/-! The checks that the commands share (R92). -/

theorem ColorType.not_isBad_of_isTrue {t : ColorType} (h : t.isTrue = true) : ¬ t.isBad = true := by
  simp [ColorType.isBad, h]

theorem ColorType.not_isBad_of_isIndexed {t : ColorType} (h : t.isIndexed = true) : ¬ t.isBad = true := by
  simp [ColorType.isBad, h]

theorem ColorType.not_isTrue_of_isIndexed {t : ColorType} (h : t.isIndexed = true) : ¬ t.isTrue = true := by
  cases t <;> simp_all [ColorType.isTrue, ColorType.isIndexed]

theorem ColorType.not_isIndexed_of_isTrue {t : ColorType} (h : t.isTrue = true) : ¬ t.isIndexed = true :=
  fun hi => ColorType.not_isTrue_of_isIndexed hi h

theorem ColorType.isIndexed_iff {t : ColorType} : t.isIndexed = true ↔ t = .indexColor4 ∨ t = .indexColor8 := by
  cases t <;> simp [ColorType.isIndexed]

/-- The bounds check of the commands that read or write both PIX and BYTE (R44, R92). -/
theorem State.imageOverrun_iff {s : State} :
    (pixOverrun s.pixelCount || s.bytesOverrun (pixelBytes s.ict s.pixelCount)) = true ↔ ¬ s.ImageFits := by
  simp only [State.ImageFits, pixOverrun, State.bytesOverrun, Bool.or_eq_true, decide_eq_true_eq]
  omega

theorem State.ImageFits.not_overrun {s : State} (h : s.ImageFits) :
    ¬ (pixOverrun s.pixelCount || s.bytesOverrun (pixelBytes s.ict s.pixelCount)) = true :=
  fun ho => State.imageOverrun_iff.1 ho h

/-! The fault entry from a state without a fault (R160). -/

theorem State.faultedAs_raise {s : State} (hf : s.fault = false) (c : Cause) : s.FaultedAs c (s.raise c) := by
  simp [State.FaultedAs, State.raise, hf]

theorem State.raise_cause_of_not_fault {s : State} (hf : s.fault = false) (c : Cause) :
    (s.raise c).cause = causeCode c := by
  simp [hf]

/-- A command that raises `c` and writes nothing else. -/
theorem exists_faultedAs {i : Instr} {s : State} {c : Cause} (hf : s.fault = false)
    (h : exec i s = .next (s.raise c)) : ∃ t, exec i s = .next t ∧ s.FaultedAs c t :=
  ⟨_, h, State.faultedAs_raise hf c⟩

/-! A loop over the pixels or the bytes, read through the state (R36, R47). -/

theorem State.pixAt_of_loop {s t : State} (hd : t.memDraw = s.memDraw) {n : Nat} {v : Nat → Pixel}
    (hm : t.pixMem = forUpTo n (fun i m => m.write i (v i)) s.pixMem) (i : Nat) :
    t.pixAt i = if i < n then v i else s.pixAt i := by
  rw [State.pixAt, hm, read_forUpTo_write_zero, hd]
  split <;> rfl

theorem State.byteAt_of_read {s : State} {a : Nat} {v : Byte} (h : s.byteMem.read a = some v) : s.byteAt a = v := by
  rw [State.byteAt, h]
  rfl

theorem Memory.storeLE_one (m : Memory Byte) (a v : Nat) : m.storeLE a 1 v = m.write a (BitVec.ofNat 8 v) := rfl

theorem State.byteAt_of_loop {s t : State} (hd : t.memDraw = s.memDraw) {base n : Nat} {v : Nat → Nat}
    (hm : t.byteMem = forUpTo n (fun j m => m.storeLE (base + j) 1 (v j)) s.byteMem) (a : Nat) :
    t.byteAt a = if base ≤ a ∧ a < base + n then BitVec.ofNat 8 (v (a - base)) else s.byteAt a := by
  simp only [Memory.storeLE_one] at hm
  rw [State.byteAt, hm, read_forUpTo_write _ _ _ _ fun j => BitVec.ofNat 8 (v j), hd]
  split <;> rfl

/-! The bytes of a colour (R94 to R96, R101 to R103). -/

theorem ofNat_memRead_one (s : State) (a : Nat) : BitVec.ofNat 8 (s.memRead a 1) = s.byteAt a := by
  rw [State.memRead_one, BitVec.ofNat_toNat, BitVec.setWidth_eq]

theorem ofNat_memRead_two (s : State) (a : Nat) : BitVec.ofNat 16 (s.memRead a 2) = s.byteAt (a + 1) ++ s.byteAt a := by
  have hlo := (s.byteAt a).isLt
  have hhi := (s.byteAt (a + 1)).isLt
  apply BitVec.eq_of_toNat_eq
  rw [toNat_append_byte, BitVec.toNat_ofNat]
  simp only [State.memRead, Nat.add_zero]
  omega

/-- What a load of a colour reads, in the claims' terms. -/
theorem State.loadColor_eq_colorOfBytes (s : State) (t : ColorType) (a : Nat) :
    s.loadColor t a = colorOfBytes t fun k => s.byteAt (a + k) := by
  cases t <;> simp [State.loadColor, colorOfBytes, ofNat_memRead_one, ofNat_memRead_two]

/-- The bytes of a colour are those of one little-endian value. -/
theorem getElem?_colorBytes {t : ColorType} (ht : t.isTrue = true) (c : Color) {k : Nat} (hk : k < t.bpc) :
    (colorBytes t c)[k]? =
      some (BitVec.ofNat 8 ((if t = .color16 then (encode16 c).toNat else c.toNat) >>> (8 * k))) := by
  cases t with
  | color16 | color24 | color32 =>
    simp only [ColorType.bpc] at hk
    interval_cases k <;> rfl
  | _ => simp [ColorType.isTrue] at ht

theorem length_colorBytes {t : ColorType} (ht : t.isTrue = true) (c : Color) : (colorBytes t c).length = t.bpc := by
  cases t with
  | color16 | color24 | color32 => rfl
  | _ => simp [ColorType.isTrue] at ht

theorem lt_bpc_of_getElem?_colorBytes {t : ColorType} (ht : t.isTrue = true) {c : Color} {k : Nat} {v : Byte}
    (hv : (colorBytes t c)[k]? = some v) : k < t.bpc :=
  length_colorBytes ht c ▸ (List.getElem?_eq_some_iff.1 hv).1

/-- Byte `k` of colour `i`, after `n` colours have been stored one after another. -/
theorem read_forUpTo_storeColor_of_getElem? {t : ColorType} (ht : t.isTrue = true) (m : Memory Byte) (base : Nat)
    {n : Nat} {c : Nat → Color} {i k : Nat} {v : Byte} (hi : i < n) (hv : (colorBytes t (c i))[k]? = some v) :
    (forUpTo n (fun i m => storeColor t (base + t.bpc * i) (c i) m) m).read (base + t.bpc * i + k) = some v := by
  have hk := lt_bpc_of_getElem?_colorBytes ht hv
  have hin : t.bpc * i + t.bpc ≤ t.bpc * n := Nat.mul_succ t.bpc i ▸ Nat.mul_le_mul_left t.bpc hi
  have hsub : base + t.bpc * i + k - base = t.bpc * i + k := by omega
  rw [read_forUpTo_storeColor ht, if_pos ⟨by omega, by omega⟩, hsub, Nat.mul_add_div (ColorType.bpc_pos ht),
    Nat.mul_add_mod, Nat.div_eq_of_lt hk, Nat.mod_eq_of_lt hk, Nat.add_zero, ← getElem?_colorBytes ht _ hk, hv]

theorem read_forUpTo_storeColor_of_outside {t : ColorType} (ht : t.isTrue = true) (m : Memory Byte) {base n a : Nat}
    (c : Nat → Color) (ha : a < base ∨ base + t.bpc * n ≤ a) :
    (forUpTo n (fun i m => storeColor t (base + t.bpc * i) (c i) m) m).read a = m.read a := by
  rw [read_forUpTo_storeColor ht, if_neg (by omega)]

/-! The palette indices in BYTE and in PIX (R97, R98, R105, R106). -/

theorem extractLsb'_low_toNat (b : Byte) : (b.extractLsb' 0 4).toNat = b.toNat % 16 := by
  rw [BitVec.extractLsb'_toNat, Nat.shiftRight_zero]

theorem extractLsb'_high_toNat (b : Byte) : (b.extractLsb' 4 4).toNat = b.toNat / 16 := by
  have hb := b.isLt
  rw [BitVec.extractLsb'_toNat, Nat.shiftRight_eq_div_pow]
  omega

/-- The index that `PXDEC` reads, in the claims' terms. -/
theorem State.indexInBytes_eq_storedIndex {s : State} (h : s.ict.isIndexed = true) (i : Nat) :
    s.indexInBytes s.ict i = s.storedIndex i := by
  rcases ColorType.isIndexed_iff.1 h with ht | ht
  · simp only [State.indexInBytes, State.storedIndex, ht, State.memRead_one, extractLsb'_low_toNat,
      extractLsb'_high_toNat, reduceCtorEq, if_false]
  · simp [State.indexInBytes, State.storedIndex, ht, State.memRead_one]

theorem State.storedIndex_le (s : State) (i : Nat) :
    (s.storedIndex i : Int) ≤ if s.ict = .indexColor4 then 15 else 255 := by
  have hnib : ∀ x : BitVec 4, (x.toNat : Int) ≤ if s.ict = .indexColor4 then 15 else 255 := fun x => by
    have hx := x.isLt
    split <;> omega
  unfold State.storedIndex
  split
  next ht =>
    have hb := (s.byteAt (s.bpos.toNat + i)).isLt
    rw [ht, if_neg (by decide)]
    omega
  next =>
    split
    · exact hnib _
    · exact hnib _

theorem State.storedIndex_lt (s : State) (i : Nat) : s.storedIndex i < 256 := by
  have h := s.storedIndex_le i
  split at h <;> omega

theorem toInt_ofNat_of_lt {k : Nat} (hk : k < 256) : (BitVec.ofNat 32 k).toInt = k := by
  have hn : (BitVec.ofNat 32 k).toNat = k := by
    rw [BitVec.toNat_ofNat]
    omega
  rw [BitVec.toInt_eq_toNat_of_lt (by omega), hn]

theorem toInt_eq_toNat_of_nonneg {x : BitVec 32} (h : 0 ≤ x.toInt) : x.toInt = x.toNat :=
  BitVec.toInt_eq_toNat_of_lt (Nat.lt_of_not_le fun hneg => absurd (BitVec.toInt_neg_iff.2 hneg) (Int.not_lt.2 h))

/-- Two nibbles in a byte, the first in the low one (R106). -/
theorem ofNat_nibbles {hi lo : Nat} (hlo : lo < 16) :
    BitVec.ofNat 8 (hi <<< 4 ||| lo) = BitVec.ofNat 4 hi ++ BitVec.ofNat 4 lo := by
  apply BitVec.eq_of_toNat_eq
  rw [BitVec.toNat_append, BitVec.toNat_ofNat, BitVec.toNat_ofNat, BitVec.toNat_ofNat,
    ← Nat.shiftLeft_add_eq_or_of_lt (i := 4) hlo, ← Nat.shiftLeft_add_eq_or_of_lt (i := 4) (Nat.mod_lt lo (by decide)),
    Nat.shiftLeft_eq, Nat.shiftLeft_eq]
  omega

/-- A byte is its two nibbles. -/
theorem byte_eq_of_nibbles {x y : Byte} (hlo : x.extractLsb' 0 4 = y.extractLsb' 0 4)
    (hhi : x.extractLsb' 4 4 = y.extractLsb' 4 4) : x = y := by
  have h : ∀ z : Byte, z.extractLsb' 4 4 ++ z.extractLsb' 0 4 = z := fun z => BitVec.extractLsb'_append_extractLsb'
  rw [← h x, ← h y, hlo, hhi]

/-! `PXDEC` (R93 to R99). -/

section
variable {s : State}

theorem pxdec_of_isBad (h : s.ict.isBad = true) : pxdec s = s.raise .badColorType := if_pos h

theorem pxdec_of_not_imageFits (hb : ¬ s.ict.isBad = true) (h : ¬ s.ImageFits) : pxdec s = s.raise .sizeOverrun :=
  (if_neg hb).trans (if_pos (State.imageOverrun_iff.2 h))

theorem State.looksUp_of_isIndexed (h : s.ict.isIndexed = true) : s.looksUp = s.palp := by simp [State.looksUp, h]

theorem State.looksUp_of_isTrue (h : s.ict.isTrue = true) : s.looksUp = false := by
  simp [State.looksUp, ColorType.not_isIndexed_of_isTrue h]

theorem pxdec_of_palOverrun (hi : s.ict.isIndexed = true) (hp : s.palp = true) (hfit : s.ImageFits)
    (h : Config.palCap < s.plen.toNat) : pxdec s = s.raise .sizeOverrun := by
  simp only [pxdec]
  rw [if_neg (ColorType.not_isBad_of_isIndexed hi), if_neg hfit.not_overrun, if_pos]
  simp [State.looksUp_of_isIndexed hi, hp, palOverrun, h]

theorem pxdec_of_index_out_of_range (hi : s.ict.isIndexed = true) (hp : s.palp = true) (hfit : s.ImageFits)
    (hlen : s.plen.toNat ≤ Config.palCap) (h : ∃ i, i < s.pixelCount ∧ s.plen.toNat ≤ s.storedIndex i) :
    pxdec s = (s.scramblePix s.pixelCount).raise .indexRange := by
  simp only [pxdec]
  rw [if_neg (ColorType.not_isBad_of_isIndexed hi), if_neg hfit.not_overrun, if_neg, if_pos]
  · simpa [State.looksUp_of_isIndexed hi, hp, someBelow_eq_true, State.indexInBytes_eq_storedIndex hi] using h
  · simp [palOverrun_eq_false.2 hlen]

/-- What `PXDEC` leaves when its checks pass (R94 to R98). -/
def State.decoded (s : State) : State :=
  { s with
    pixMem := forUpTo s.pixelCount (fun i m => m.write i (s.pixelInBytes s.ict i)) s.pixMem
    bpos := s.posAfter (pixelBytes s.ict s.pixelCount)
    draws := if s.ict.isIndexed && !s.palp then s.draws + 1 else s.draws }

theorem State.decoded_pixAt (s : State) (i : Nat) :
    s.decoded.pixAt i = if i < s.pixelCount then s.pixelInBytes s.ict i else s.pixAt i :=
  State.pixAt_of_loop (s := s) (t := s.decoded) rfl rfl i

theorem pxdec_of_isTrue (ht : s.ict.isTrue = true) (hfit : s.ImageFits) : pxdec s = s.decoded := by
  have hl := State.looksUp_of_isTrue ht
  simp only [pxdec]
  rw [if_neg (ColorType.not_isBad_of_isTrue ht), if_neg hfit.not_overrun, if_neg (by simp [hl]), if_neg (by simp [hl])]
  rfl

theorem pxdec_of_isIndexed (hi : s.ict.isIndexed = true) (hfit : s.ImageFits)
    (hp : s.palp = true → s.plen.toNat ≤ Config.palCap ∧ ∀ i, i < s.pixelCount → s.storedIndex i < s.plen.toNat) :
    pxdec s = s.decoded := by
  simp only [pxdec]
  rw [if_neg (ColorType.not_isBad_of_isIndexed hi), if_neg hfit.not_overrun, if_neg, if_neg]
  · rfl
  · simpa [State.looksUp_of_isIndexed hi, someBelow_eq_false, State.indexInBytes_eq_storedIndex hi]
      using fun h => (hp h).2
  · simpa [State.looksUp_of_isIndexed hi, palOverrun_eq_false] using fun h => (hp h).1

theorem State.pixelInBytes_of_isTrue (ht : s.ict.isTrue = true) (i : Nat) : s.pixelInBytes s.ict i =
    { color := colorOfBytes s.ict fun k => s.byteAt (s.bpos.toNat + s.ict.bpc * i + k), index := -1 } := by
  rw [State.pixelInBytes, if_neg (ColorType.not_isIndexed_of_isTrue ht), State.loadColor_eq_colorOfBytes]

theorem State.pixelInBytes_of_isIndexed (hi : s.ict.isIndexed = true) (i : Nat) :
    s.pixelInBytes s.ict i = s.indexedPixel i (s.storedIndex i) := by
  rw [State.pixelInBytes, if_pos hi, State.indexInBytes_eq_storedIndex hi]

end

/-- Settles O38, by the loop of `PXDEC`. -/
theorem pxdecTrueColor : Obligations.PxdecTrueColor := by
  intro s ht hfit
  refine ⟨s.decoded, congrArg _ (pxdec_of_isTrue ht hfit), ?_, State.posAfter_toNat hfit.2, fun i hi => ?_,
    fun i hi => ?_⟩
  · simp [State.decoded, ColorType.not_isIndexed_of_isTrue ht]
  · rw [State.decoded_pixAt, if_pos hi, State.pixelInBytes_of_isTrue ht]
    exact ⟨rfl, rfl⟩
  · rw [State.decoded_pixAt, if_neg (Nat.not_lt.2 hi)]

/-- Settles O39, by the loop of `PXDEC`; a byte's index is no negative one. -/
theorem pxdecIndexed : Obligations.PxdecIndexed := by
  intro s hidx hfit hp
  refine ⟨s.decoded, congrArg _ (pxdec_of_isIndexed hidx hfit hp), rfl, State.posAfter_toNat hfit.2,
    fun i hi => ?_, fun i hi => ?_⟩
  · rw [State.decoded_pixAt, if_pos hi, State.pixelInBytes_of_isIndexed hidx]
    exact ⟨toInt_ofNat_of_lt (s.storedIndex_lt i), fun h => if_pos h⟩
  · rw [State.decoded_pixAt, if_neg (Nat.not_lt.2 hi)]

/-- Settles O40, check by check. -/
theorem pxdecFaults : Obligations.PxdecFaults := by
  intro s hf
  refine ⟨fun h => ?_, fun hb h => ?_, fun hi hp hfit h => ?_, fun hi hp hfit hlen h => ?_⟩
  · exact exists_faultedAs hf (congrArg _ (pxdec_of_isBad h))
  · exact exists_faultedAs hf (congrArg _ (pxdec_of_not_imageFits (ne_true_of_eq_false hb) h))
  · exact exists_faultedAs hf (congrArg _ (pxdec_of_palOverrun hi hp hfit h))
  · exact ⟨_, congrArg Host.Outcome.next (pxdec_of_index_out_of_range hi hp hfit hlen h), rfl,
      State.raise_cause_of_not_fault (s := s.scramblePix s.pixelCount) hf .indexRange, rfl⟩

/-! `PXENCT` (R100 to R103). -/

section
variable {s : State}

theorem pxenct_of_isBad (h : s.ict.isBad = true) : pxenct s = s.raise .badColorType := if_pos h

theorem pxenct_of_isIndexed (h : s.ict.isIndexed = true) : pxenct s = s.raise .wrongPath :=
  (if_neg (ColorType.not_isBad_of_isIndexed h)).trans (if_pos h)

theorem pxenct_of_not_imageFits (ht : s.ict.isTrue = true) (h : ¬ s.ImageFits) : pxenct s = s.raise .sizeOverrun := by
  simp only [pxenct]
  rw [if_neg (ColorType.not_isBad_of_isTrue ht), if_neg (ColorType.not_isIndexed_of_isTrue ht),
    if_pos (State.imageOverrun_iff.2 h)]

/-- What `PXENCT` leaves when its checks pass (R101 to R103). -/
def State.colorsEncoded (s : State) : State :=
  { s with
    byteMem := forUpTo s.pixelCount
      (fun i m => storeColor s.ict (s.bpos.toNat + s.ict.bpc * i) (s.pixAt i).color m) s.byteMem
    bpos := s.posAfter (pixelBytes s.ict s.pixelCount) }

theorem pxenct_of_isTrue (ht : s.ict.isTrue = true) (hfit : s.ImageFits) : pxenct s = s.colorsEncoded := by
  simp only [pxenct]
  rw [if_neg (ColorType.not_isBad_of_isTrue ht), if_neg (ColorType.not_isIndexed_of_isTrue ht),
    if_neg hfit.not_overrun]
  rfl

end

/-- Settles O41, by the loop of `PXENCT`. -/
theorem pxenctResult : Obligations.PxenctResult := by
  intro s ht hfit
  refine ⟨s.colorsEncoded, congrArg _ (pxenct_of_isTrue ht hfit), rfl, State.posAfter_toNat hfit.2,
    fun i k v hi hv => ?_, fun a ha => ?_⟩
  · exact State.byteAt_of_read
      (read_forUpTo_storeColor_of_getElem? ht s.byteMem s.bpos.toNat (c := fun i => (s.pixAt i).color) hi hv)
  · rw [pixelBytes_of_isTrue ht] at ha
    exact State.byteAt_congr (s := s) (t := s.colorsEncoded) rfl
      (read_forUpTo_storeColor_of_outside ht s.byteMem (fun i => (s.pixAt i).color) ha)

/-- Settles O42, check by check. -/
theorem pxenctFaults : Obligations.PxenctFaults := by
  intro s hf
  refine ⟨fun h => ?_, fun h => ?_, fun ht h => ?_⟩
  · exact exists_faultedAs hf (congrArg _ (pxenct_of_isBad h))
  · exact exists_faultedAs hf (congrArg _ (pxenct_of_isIndexed h))
  · exact exists_faultedAs hf (congrArg _ (pxenct_of_not_imageFits ht h))

/-! `PXENCI` (R104 to R107). -/

section
variable {s : State}

theorem pxenci_of_isBad (h : s.ict.isBad = true) : pxenci s = s.raise .badColorType := if_pos h

theorem pxenci_of_isTrue (h : s.ict.isTrue = true) : pxenci s = s.raise .wrongPath :=
  (if_neg (ColorType.not_isBad_of_isTrue h)).trans (if_pos h)

theorem pxenci_of_not_imageFits (hi : s.ict.isIndexed = true) (h : ¬ s.ImageFits) :
    pxenci s = s.raise .sizeOverrun := by
  simp only [pxenci]
  rw [if_neg (ColorType.not_isBad_of_isIndexed hi), if_neg (ColorType.not_isTrue_of_isIndexed hi),
    if_pos (State.imageOverrun_iff.2 h)]

theorem maxIndex_eq (t : ColorType) : maxIndex t = if t = .indexColor4 then 15 else 255 := by cases t <;> rfl

theorem pxenci_of_index_unfit (hi : s.ict.isIndexed = true) (hfit : s.ImageFits)
    (h : ∃ i, i < s.pixelCount ∧ ((s.pixAt i).index.toInt < 0 ∨
      (if s.ict = .indexColor4 then 15 else 255) < (s.pixAt i).index.toInt)) :
    pxenci s = (s.scrambleBytes (pixelBytes s.ict s.pixelCount)).raise .indexRange := by
  simp only [pxenci]
  rw [if_neg (ColorType.not_isBad_of_isIndexed hi), if_neg (ColorType.not_isTrue_of_isIndexed hi),
    if_neg hfit.not_overrun, if_pos]
  simpa only [someBelow_eq_true, State.indexUnfit, maxIndex_eq, decide_eq_true_eq] using h

/-- What `PXENCI` leaves when its checks pass (R105, R106). -/
def State.indicesEncoded (s : State) : State :=
  { s with
    byteMem := forUpTo (pixelBytes s.ict s.pixelCount)
      (fun j m => m.storeLE (s.bpos.toNat + j) 1 (s.indexByte s.ict s.pixelCount j)) s.byteMem
    bpos := s.posAfter (pixelBytes s.ict s.pixelCount)
    draws := if s.ict = .indexColor4 ∧ s.pixelCount % 2 = 1 then s.draws + 1 else s.draws }

theorem pxenci_of_indices_fit (hi : s.ict.isIndexed = true) (hfit : s.ImageFits)
    (h : ∀ i, i < s.pixelCount → 0 ≤ (s.pixAt i).index.toInt ∧
      (s.pixAt i).index.toInt ≤ if s.ict = .indexColor4 then 15 else 255) : pxenci s = s.indicesEncoded := by
  simp only [pxenci]
  rw [if_neg (ColorType.not_isBad_of_isIndexed hi), if_neg (ColorType.not_isTrue_of_isIndexed hi),
    if_neg hfit.not_overrun, if_neg]
  · rfl
  · simpa only [Bool.not_eq_true, someBelow_eq_false, State.indexUnfit, maxIndex_eq, decide_eq_false_iff_not, not_or,
      Int.not_lt] using h

theorem State.indicesEncoded_byteAt (s : State) (a : Nat) : s.indicesEncoded.byteAt a =
    if s.bpos.toNat ≤ a ∧ a < s.bpos.toNat + pixelBytes s.ict s.pixelCount then
      BitVec.ofNat 8 (s.indexByte s.ict s.pixelCount (a - s.bpos.toNat))
    else s.byteAt a :=
  State.byteAt_of_loop (s := s) (t := s.indicesEncoded) rfl rfl a

theorem State.indicesEncoded_byteAt_of_lt {j : Nat} (hj : j < pixelBytes s.ict s.pixelCount) :
    s.indicesEncoded.byteAt (s.bpos.toNat + j) = BitVec.ofNat 8 (s.indexByte s.ict s.pixelCount j) := by
  rw [State.indicesEncoded_byteAt, if_pos ⟨by omega, by omega⟩, Nat.add_sub_cancel_left]

theorem State.indicesEncoded_byteAt_of_outside {a : Nat}
    (ha : a < s.bpos.toNat ∨ s.bpos.toNat + pixelBytes s.ict s.pixelCount ≤ a) :
    s.indicesEncoded.byteAt a = s.byteAt a := by
  rw [State.indicesEncoded_byteAt, if_neg (by omega)]

end

theorem State.indexByte_indexColor8 (s : State) (n j : Nat) :
    s.indexByte .indexColor8 n j = (s.pixAt j).index.toNat := rfl

/-- Settles O43, by the loop of `PXENCI`: an index from 0 to 255 is its own byte. -/
theorem pxenciIndex8Result : Obligations.PxenciIndex8Result := by
  intro s ht hfit hidx
  have hnb : pixelBytes s.ict s.pixelCount = s.pixelCount := by rw [ht]; rfl
  refine ⟨s.indicesEncoded, congrArg _ (pxenci_of_indices_fit (ht ▸ rfl) hfit (by simpa [ht] using hidx)), ?_, ?_,
    fun i hi => ?_, fun a ha => ?_⟩
  · simp [State.indicesEncoded, ht]
  · exact hnb ▸ State.posAfter_toNat hfit.2
  · obtain ⟨h0, h255⟩ := hidx i hi
    rw [toInt_eq_toNat_of_nonneg h0] at h255 ⊢
    rw [State.indicesEncoded_byteAt_of_lt (hnb.symm ▸ hi), ht, State.indexByte_indexColor8, BitVec.toNat_ofNat]
    omega
  · exact State.indicesEncoded_byteAt_of_outside (hnb.symm ▸ ha)

/-- The nibble that `PXENCI` writes for pixel `i` (R106). -/
theorem State.indexByte_nibble {s : State} {n i : Nat} (hi : i < n)
    (hidx : ∀ i, i < n → 0 ≤ (s.pixAt i).index.toInt ∧ (s.pixAt i).index.toInt ≤ 15) :
    ((if i % 2 = 0 then (BitVec.ofNat 8 (s.indexByte .indexColor4 n (i / 2))).extractLsb' 0 4
      else (BitVec.ofNat 8 (s.indexByte .indexColor4 n (i / 2))).extractLsb' 4 4 : BitVec 4).toNat : Int) =
      (s.pixAt i).index.toInt := by
  have hlt : ∀ j, j < n → (s.pixAt j).index.toInt = (s.pixAt j).index.toNat ∧ (s.pixAt j).index.toNat < 16 := by
    intro j hj
    obtain ⟨h0, h15⟩ := hidx j hj
    have hnat := toInt_eq_toNat_of_nonneg h0
    exact ⟨hnat, by omega⟩
  rw [State.indexByte, ofNat_nibbles (hlt (2 * (i / 2)) (by omega)).2, BitVec.extractLsb'_append_eq_left,
    BitVec.extractLsb'_append_eq_right, (hlt i hi).1]
  split
  next heven =>
    rw [show 2 * (i / 2) = i by omega, BitVec.toNat_ofNat, Nat.mod_eq_of_lt (hlt i hi).2]
  next hodd =>
    rw [show 2 * (i / 2) + 1 = i by omega, if_pos hi, BitVec.toNat_ofNat, Nat.mod_eq_of_lt (hlt i hi).2]

/-- Settles O44, by the loop of `PXENCI`, nibble by nibble. -/
theorem pxenciIndex4Result : Obligations.PxenciIndex4Result := by
  intro s ht hfit hidx
  have hnb : pixelBytes s.ict s.pixelCount = (s.pixelCount + 1) / 2 := by rw [ht]; rfl
  refine ⟨s.indicesEncoded, congrArg _ (pxenci_of_indices_fit (ht ▸ rfl) hfit (by simpa [ht] using hidx)), rfl, ?_,
    fun i hi => ?_, fun a ha => ?_⟩
  · exact hnb ▸ State.posAfter_toNat hfit.2
  · rw [State.indicesEncoded_byteAt_of_lt (by omega), ht]
    exact State.indexByte_nibble hi hidx
  · exact State.indicesEncoded_byteAt_of_outside (hnb.symm ▸ ha)

/-- Settles O45, check by check. -/
theorem pxenciFaults : Obligations.PxenciFaults := by
  intro s hf
  refine ⟨fun h => ?_, fun h => ?_, fun hi h => ?_, fun hi hfit h => ?_⟩
  · exact exists_faultedAs hf (congrArg _ (pxenci_of_isBad h))
  · exact exists_faultedAs hf (congrArg _ (pxenci_of_isTrue h))
  · exact exists_faultedAs hf (congrArg _ (pxenci_of_not_imageFits hi h))
  · exact ⟨_, congrArg Host.Outcome.next (pxenci_of_index_unfit hi hfit h), rfl,
      State.raise_cause_of_not_fault (s := s.scrambleBytes (pixelBytes s.ict s.pixelCount)) hf .indexRange, rfl⟩

/-! `PXRES` (R108). -/

section
variable {s : State}

theorem pxres_of_isBad (h : s.ict.isBad = true) : pxres s = s.raise .badColorType := if_pos h

theorem pxres_of_isTrue (h : s.ict.isTrue = true) : pxres s = s.raise .wrongPath :=
  (if_neg (ColorType.not_isBad_of_isTrue h)).trans (if_pos h)

theorem pxres_of_overrun (hi : s.ict.isIndexed = true)
    (h : Config.pixCap < s.pixelCount ∨ Config.palCap < s.plen.toNat) : pxres s = s.raise .sizeOverrun := by
  simp only [pxres]
  rw [if_neg (ColorType.not_isBad_of_isIndexed hi), if_neg (ColorType.not_isTrue_of_isIndexed hi), if_pos]
  simpa [pixOverrun, palOverrun] using h

theorem pxres_of_index_unresolved (hi : s.ict.isIndexed = true) (hn : s.pixelCount ≤ Config.pixCap)
    (hlen : s.plen.toNat ≤ Config.palCap)
    (h : ∃ i, i < s.pixelCount ∧ ((s.pixAt i).index.toInt < 0 ∨ (s.plen.toNat : Int) ≤ (s.pixAt i).index.toInt)) :
    pxres s = (s.scrambleColors s.pixelCount).raise .indexRange := by
  simp only [pxres]
  rw [if_neg (ColorType.not_isBad_of_isIndexed hi), if_neg (ColorType.not_isTrue_of_isIndexed hi), if_neg, if_pos]
  · simpa only [someBelow_eq_true, State.indexUnresolved, decide_eq_true_eq] using h
  · simp [pixOverrun_eq_false.2 hn, palOverrun_eq_false.2 hlen]

/-- What `PXRES` leaves when its checks pass. -/
def State.resolved (s : State) : State :=
  { s with
    pixMem := forUpTo s.pixelCount
      (fun i m => m.write i { s.pixAt i with color := s.palAt (s.pixAt i).index.toNat }) s.pixMem }

theorem pxres_of_indices_resolve (hi : s.ict.isIndexed = true) (hn : s.pixelCount ≤ Config.pixCap)
    (hlen : s.plen.toNat ≤ Config.palCap)
    (h : ∀ i, i < s.pixelCount → 0 ≤ (s.pixAt i).index.toInt ∧ (s.pixAt i).index.toInt < s.plen.toNat) :
    pxres s = s.resolved := by
  simp only [pxres]
  rw [if_neg (ColorType.not_isBad_of_isIndexed hi), if_neg (ColorType.not_isTrue_of_isIndexed hi), if_neg, if_neg]
  · rfl
  · simpa only [Bool.not_eq_true, someBelow_eq_false, State.indexUnresolved, decide_eq_false_iff_not, not_or,
      Int.not_lt, Int.not_le] using h
  · simp [pixOverrun_eq_false.2 hn, palOverrun_eq_false.2 hlen]

theorem State.resolved_pixAt (s : State) (i : Nat) : s.resolved.pixAt i =
    if i < s.pixelCount then { s.pixAt i with color := s.palAt (s.pixAt i).index.toNat } else s.pixAt i :=
  State.pixAt_of_loop (s := s) (t := s.resolved) rfl rfl i

end

/-- Settles O46, by the loop of `PXRES`: the index is not negative, so it is the number of its palette entry. -/
theorem pxresResult : Obligations.PxresResult := by
  intro s hidx hn hlen h
  refine ⟨s.resolved, congrArg _ (pxres_of_indices_resolve hidx hn hlen h), rfl, fun i hi => ?_, fun i hi => ?_⟩
  · rw [State.resolved_pixAt, if_pos hi, toInt_eq_toNat_of_nonneg (h i hi).1]
    exact ⟨rfl, rfl⟩
  · rw [State.resolved_pixAt, if_neg (Nat.not_lt.2 hi)]

/-- Settles O47, check by check. -/
theorem pxresFaults : Obligations.PxresFaults := by
  intro s hf
  refine ⟨fun h => ?_, fun h => ?_, fun hi h => ?_, fun hi hn hlen h => ?_⟩
  · exact exists_faultedAs hf (congrArg _ (pxres_of_isBad h))
  · exact exists_faultedAs hf (congrArg _ (pxres_of_isTrue h))
  · exact exists_faultedAs hf (congrArg _ (pxres_of_overrun hi h))
  · exact ⟨_, congrArg Host.Outcome.next (pxres_of_index_unresolved hi hn hlen h), rfl,
      State.raise_cause_of_not_fault (s := s.scrambleColors s.pixelCount) hf .indexRange⟩

end Sys2Proof.Machine
end

section
/-! PROOFS. The round trips of the pixel codec: the results of a decode and of an encode put together, each read back through
the bytes of a colour or the nibbles of an index (42_pixel_codec.md R109). -/

namespace Sys2Proof.Machine

/-! A colour through its bytes and back (R87, R88). -/

theorem getElem?_colorBytes_colorOfBytes {t : ColorType} (ht : t.isTrue = true) (b : Nat → Byte) {k : Nat}
    (hk : k < t.bpc) : (colorBytes t (colorOfBytes t b))[k]? = some (b k) := by
  cases t with
  | color16 =>
    rw [colorBytes, colorOfBytes, encode16_decode16]
    simp only [ColorType.bpc] at hk
    interval_cases k
    · exact congrArg some BitVec.extractLsb'_append_eq_right
    · exact congrArg some BitVec.extractLsb'_append_eq_left
  | color24 | color32 =>
    simp only [ColorType.bpc] at hk
    interval_cases k <;> simp [colorBytes, colorOfBytes]
  | _ => simp [ColorType.isTrue] at ht

theorem and_F8_toNat (x : Byte) : (x &&& 0xF8).toNat = x.toNat / 8 * 8 := by
  revert x
  decide

/-- R88: a channel loses its low three bits, the alpha all but its full value. -/
theorem decode16_encode16 (c : Color) : decode16 (encode16 c) = colorKept .color16 c := by
  apply color_ext <;> apply BitVec.eq_of_toNat_eq
  · rw [colorR_decode16_toNat, encode16_red_toNat, colorKept, colorR_rgba, and_F8_toNat]
  · rw [colorG_decode16_toNat, encode16_green_toNat, colorKept, colorG_rgba, and_F8_toNat]
  · rw [colorB_decode16_toNat, encode16_blue_toNat, colorKept, colorB_rgba, and_F8_toNat]
  · have h255 : colorA c = 255 ↔ (colorA c).toNat = 255 := BitVec.toNat_inj.symm
    rw [colorA_decode16_toNat, colorKept, colorA_rgba, apply_ite BitVec.toNat]
    simp only [encode16_alpha_iff, h255]
    rfl

theorem colorOfBytes_of_colorBytes {t : ColorType} (ht : t.isTrue = true) {c : Color} {b : Nat → Byte}
    (hb : ∀ k v, (colorBytes t c)[k]? = some v → b k = v) : colorOfBytes t b = colorKept t c := by
  cases t with
  | color16 =>
    rw [colorOfBytes, hb 0 _ rfl, hb 1 _ rfl, ← decode16_encode16]
    exact congrArg decode16 BitVec.extractLsb'_append_extractLsb'
  | color24 => rw [colorOfBytes, hb 0 _ rfl, hb 1 _ rfl, hb 2 _ rfl, colorKept]
  | color32 =>
    rw [colorOfBytes, hb 0 _ rfl, hb 1 _ rfl, hb 2 _ rfl, hb 3 _ rfl]
    exact rgba_channels c
  | _ => simp [ColorType.isTrue] at ht

/-- Every byte of an image in colours of `w` bytes is byte `k` of a pixel `i`. -/
theorem exists_pixel_of_byte {base w n a : Nat} (hw : 0 < w) (hlo : base ≤ a) (hhi : a < base + w * n) :
    ∃ i k, i < n ∧ k < w ∧ a = base + w * i + k := by
  refine ⟨(a - base) / w, (a - base) % w, Nat.div_lt_of_lt_mul (by omega), Nat.mod_lt _ hw, ?_⟩
  have := Nat.div_add_mod (a - base) w
  omega

/-! An index through its byte or nibble and back. -/

section
variable {s u : State}

theorem State.storedIndex_of_indexColor8 (ht : s.ict = .indexColor8) (i : Nat) :
    s.storedIndex i = (s.byteAt (s.bpos.toNat + i)).toNat := if_pos ht

theorem State.storedIndex_even (ht : s.ict = .indexColor4) (j : Nat) :
    s.storedIndex (2 * j) = ((s.byteAt (s.bpos.toNat + j)).extractLsb' 0 4).toNat := by
  rw [State.storedIndex, ht, if_neg (by decide), if_pos (by omega), Nat.mul_div_cancel_left j (by decide)]

theorem State.storedIndex_odd (ht : s.ict = .indexColor4) (j : Nat) :
    s.storedIndex (2 * j + 1) = ((s.byteAt (s.bpos.toNat + j)).extractLsb' 4 4).toNat := by
  rw [State.storedIndex, ht, if_neg (by decide), if_neg (by omega), show (2 * j + 1) / 2 = j by omega]

/-- The indices stored from `BPOS` up settle the image's bytes, but for the high nibble past an odd last pixel. -/
theorem State.byteAt_eq_of_storedIndex_eq (hict : u.ict = s.ict) (hpos : u.bpos = s.bpos)
    (hidx : s.ict.isIndexed = true) (h : ∀ i, i < s.pixelCount → u.storedIndex i = s.storedIndex i) {j : Nat}
    (hj : j < pixelBytes s.ict s.pixelCount) :
    (u.byteAt (s.bpos.toNat + j)).extractLsb' 0 4 = (s.byteAt (s.bpos.toNat + j)).extractLsb' 0 4 ∧
      (¬ (s.ict = .indexColor4 ∧ s.pixelCount % 2 = 1 ∧ j + 1 = pixelBytes s.ict s.pixelCount) →
        u.byteAt (s.bpos.toNat + j) = s.byteAt (s.bpos.toNat + j)) := by
  rcases ColorType.isIndexed_iff.1 hidx with ht | ht
  · have hnb : pixelBytes s.ict s.pixelCount = (s.pixelCount + 1) / 2 := by rw [ht]; rfl
    have hlow := h (2 * j) (by omega)
    rw [State.storedIndex_even ht, State.storedIndex_even (hict.trans ht), hpos] at hlow
    refine ⟨BitVec.eq_of_toNat_eq hlow, fun hlast => byte_eq_of_nibbles (BitVec.eq_of_toNat_eq hlow) ?_⟩
    have hin : 2 * j + 1 < s.pixelCount := by
      by_contra hge
      exact hlast ⟨ht, by omega, by omega⟩
    have hhigh := h (2 * j + 1) hin
    rw [State.storedIndex_odd ht, State.storedIndex_odd (hict.trans ht), hpos] at hhigh
    exact BitVec.eq_of_toNat_eq hhigh
  · have hnb : pixelBytes s.ict s.pixelCount = s.pixelCount := by rw [ht]; rfl
    have hbyte := h j (by omega)
    rw [State.storedIndex_of_indexColor8 ht, State.storedIndex_of_indexColor8 (hict.trans ht), hpos] at hbyte
    have heq := BitVec.eq_of_toNat_eq hbyte
    exact ⟨by rw [heq], fun _ => heq⟩

/-- What `PXENCI` leaves, for both indexed types: the indices as `PXDEC` would read them from the old `BPOS`. -/
theorem pxenci_storedIndex (hidx : s.ict.isIndexed = true) (hfit : s.ImageFits)
    (h : ∀ i, i < s.pixelCount → 0 ≤ (s.pixAt i).index.toInt ∧
      (s.pixAt i).index.toInt ≤ if s.ict = .indexColor4 then 15 else 255) :
    ∃ t, exec .pxenci s = .next t ∧ t = { s with byteMem := t.byteMem, bpos := t.bpos, draws := t.draws } ∧
      t.bpos.toNat = s.bpos.toNat + pixelBytes s.ict s.pixelCount ∧
      (∀ i, i < s.pixelCount → ((t.atPos s.bpos).storedIndex i : Int) = (s.pixAt i).index.toInt) ∧
      ∀ a, a < s.bpos.toNat ∨ s.bpos.toNat + pixelBytes s.ict s.pixelCount ≤ a → t.byteAt a = s.byteAt a := by
  rcases ColorType.isIndexed_iff.1 hidx with ht | ht
  · obtain ⟨t, hexec, hframe, hpos, hnib, hout⟩ := pxenciIndex4Result s ht hfit (by simpa [ht] using h)
    have hnb : pixelBytes s.ict s.pixelCount = (s.pixelCount + 1) / 2 := by rw [ht]; rfl
    have hict : (t.atPos s.bpos).ict = .indexColor4 := (congrArg State.ict hframe).trans ht
    refine ⟨t, hexec, hframe, hnb.symm ▸ hpos, fun i hi => ?_, hnb.symm ▸ hout⟩
    rw [← hnib i hi, State.storedIndex, hict, if_neg (by decide)]
    split <;> rfl
  · obtain ⟨t, hexec, hframe, hpos, hbyte, hout⟩ := pxenciIndex8Result s ht hfit (by simpa [ht] using h)
    have hnb : pixelBytes s.ict s.pixelCount = s.pixelCount := by rw [ht]; rfl
    have hict : (t.atPos s.bpos).ict = .indexColor8 := (congrArg State.ict hframe).trans ht
    refine ⟨t, hexec, ?_, hnb.symm ▸ hpos, fun i hi => ?_, hnb.symm ▸ hout⟩
    · exact hframe.trans (congrArg (fun d => { s with byteMem := t.byteMem, bpos := t.bpos, draws := d })
        (congrArg State.draws hframe).symm)
    · rw [← hbyte i hi, State.storedIndex_of_indexColor8 hict]
      rfl

/-! The round trips, one direction and one family at a time. -/

/-- Every byte of the image is a byte of the colour decoded from it. -/
theorem pxenct_after_pxdec (hfit : s.ImageFits) (ht : s.ict.isTrue = true) :
    ∃ t u, exec .pxdec s = .next t ∧ exec .pxenct (t.atPos s.bpos) = .next u ∧ u.fault = s.fault ∧
      u.bpos = t.bpos ∧ ∀ a, u.byteAt a = s.byteAt a := by
  obtain ⟨t, hdec, hframe, hpos, hpix, -⟩ := pxdecTrueColor s ht hfit
  have hback : t.atPos s.bpos = { s with pixMem := t.pixMem } := congrArg (State.atPos · s.bpos) hframe
  have hcolor : ∀ i, i < s.pixelCount → ((t.atPos s.bpos).pixAt i).color =
      colorOfBytes s.ict fun k => s.byteAt (s.bpos.toNat + s.ict.bpc * i + k) := fun i hi => (hpix i hi).2
  rw [hback] at hcolor
  obtain ⟨u, henc, hframe', hpos', hbytes, hout⟩ := pxenctResult { s with pixMem := t.pixMem } ht hfit
  refine ⟨t, u, hdec, hback ▸ henc, (congrArg State.fault hframe' :), BitVec.eq_of_toNat_eq (hpos'.trans hpos.symm),
    fun a => ?_⟩
  by_cases ha : a < s.bpos.toNat ∨ s.bpos.toNat + pixelBytes s.ict s.pixelCount ≤ a
  · exact hout a ha
  · rw [pixelBytes_of_isTrue ht, not_or, Nat.not_lt, Nat.not_le] at ha
    obtain ⟨i, k, hi, hk, rfl⟩ := exists_pixel_of_byte (ColorType.bpc_pos ht) ha.1 ha.2
    refine hbytes i k _ hi ?_
    rw [hcolor i hi]
    exact getElem?_colorBytes_colorOfBytes ht _ hk

/-- The indices that `PXENCI` stores are those that `PXDEC` read from the same bytes. -/
theorem pxenci_after_pxdec (hfit : s.ImageFits) (hidx : s.ict.isIndexed = true)
    (hp : s.palp = true → s.plen.toNat ≤ Config.palCap ∧ ∀ i, i < s.pixelCount → s.storedIndex i < s.plen.toNat) :
    ∃ t u, exec .pxdec s = .next t ∧ exec .pxenci (t.atPos s.bpos) = .next u ∧ u.fault = s.fault ∧ u.bpos = t.bpos ∧
      ∀ a, (u.byteAt a).extractLsb' 0 4 = (s.byteAt a).extractLsb' 0 4 ∧
        (¬ (s.ict = .indexColor4 ∧ s.pixelCount % 2 = 1 ∧ a + 1 = s.bpos.toNat + pixelBytes s.ict s.pixelCount) →
          u.byteAt a = s.byteAt a) := by
  obtain ⟨t, hdec, hframe, hpos, hpix, -⟩ := pxdecIndexed s hidx hfit hp
  have hback : t.atPos s.bpos = { s with pixMem := t.pixMem, draws := t.draws } :=
    congrArg (State.atPos · s.bpos) hframe
  have hindex : ∀ i, i < s.pixelCount → ((t.atPos s.bpos).pixAt i).index.toInt = s.storedIndex i :=
    fun i hi => (hpix i hi).1
  rw [hback] at hindex
  obtain ⟨u, henc, hframe', hpos', hstored, hout⟩ :=
    pxenci_storedIndex (s := { s with pixMem := t.pixMem, draws := t.draws }) hidx hfit fun i hi => by
      rw [hindex i hi]
      exact ⟨Int.natCast_nonneg _, s.storedIndex_le i⟩
  refine ⟨t, u, hdec, hback ▸ henc, (congrArg State.fault hframe' :),
    BitVec.eq_of_toNat_eq (hpos'.trans hpos.symm), fun a => ?_⟩
  by_cases ha : a < s.bpos.toNat ∨ s.bpos.toNat + pixelBytes s.ict s.pixelCount ≤ a
  · have heq : u.byteAt a = s.byteAt a := hout a ha
    exact ⟨by rw [heq], fun _ => heq⟩
  · obtain ⟨j, rfl⟩ := Nat.exists_eq_add_of_le (Nat.not_lt.1 (not_or.1 ha).1)
    rw [Nat.add_assoc, Nat.add_left_cancel_iff]
    exact State.byteAt_eq_of_storedIndex_eq (s := s) (u := u.atPos s.bpos) (congrArg State.ict hframe' :) rfl hidx
      (fun i hi => Int.ofNat.inj ((hstored i hi).trans (hindex i hi))) (by omega)

/-- The colour decoded is the one that the bytes of the colour encoded keep. -/
theorem pxdec_after_pxenct (hfit : s.ImageFits) (ht : s.ict.isTrue = true) :
    ∃ t u, exec .pxenct s = .next t ∧ exec .pxdec (t.atPos s.bpos) = .next u ∧ u.fault = s.fault ∧
      ∀ i, i < s.pixelCount → (u.pixAt i).color = colorKept s.ict (s.pixAt i).color := by
  obtain ⟨t, henc, hframe, -, hbytes, -⟩ := pxenctResult s ht hfit
  have hback : t.atPos s.bpos = { s with byteMem := t.byteMem } := congrArg (State.atPos · s.bpos) hframe
  have hbytes' : ∀ i k v, i < s.pixelCount → (colorBytes s.ict (s.pixAt i).color)[k]? = some v →
      (t.atPos s.bpos).byteAt (s.bpos.toNat + s.ict.bpc * i + k) = v := hbytes
  rw [hback] at hbytes'
  obtain ⟨u, hdec, hframe', -, hpix, -⟩ := pxdecTrueColor { s with byteMem := t.byteMem } ht hfit
  refine ⟨t, u, henc, hback ▸ hdec, (congrArg State.fault hframe' :), fun i hi => ?_⟩
  rw [(hpix i hi).2]
  exact colorOfBytes_of_colorBytes ht fun k v hv => hbytes' i k v hi hv

/-- The indices that `PXDEC` reads are those that `PXENCI` stored. -/
theorem pxdec_after_pxenci (hfit : s.ImageFits) (hidx : s.ict.isIndexed = true)
    (h : ∀ i, i < s.pixelCount → 0 ≤ (s.pixAt i).index.toInt ∧
      (s.pixAt i).index.toInt ≤ if s.ict = .indexColor4 then 15 else 255)
    (hp : s.palp = true → s.plen.toNat ≤ Config.palCap ∧
      ∀ i, i < s.pixelCount → (s.pixAt i).index.toInt < s.plen.toNat) :
    ∃ t u, exec .pxenci s = .next t ∧ exec .pxdec (t.atPos s.bpos) = .next u ∧ u.fault = s.fault ∧
      ∀ i, i < s.pixelCount → (u.pixAt i).index = (s.pixAt i).index := by
  obtain ⟨t, henc, hframe, -, hstored, -⟩ := pxenci_storedIndex hidx hfit h
  have hback : t.atPos s.bpos = { s with byteMem := t.byteMem, draws := t.draws } :=
    congrArg (State.atPos · s.bpos) hframe
  rw [hback] at hstored
  obtain ⟨u, hdec, hframe', -, hpix, -⟩ :=
    pxdecIndexed { s with byteMem := t.byteMem, draws := t.draws } hidx hfit fun hpal =>
      ⟨(hp hpal).1, fun i hi => Int.ofNat_lt.1 (hstored i hi ▸ (hp hpal).2 i hi)⟩
  refine ⟨t, u, henc, hback ▸ hdec, (congrArg State.fault hframe' :), fun i hi => ?_⟩
  exact BitVec.toInt_inj.1 ((hpix i hi).1.trans (hstored i hi))

end

/-- Settles O48, one clause a round trip. -/
theorem pixelRoundTrips : Obligations.PixelRoundTrips := fun _ hfit =>
  ⟨pxenct_after_pxdec hfit, pxenci_after_pxdec hfit, pxdec_after_pxenct hfit, pxdec_after_pxenci hfit⟩

end Sys2Proof.Machine
end

section
/-! PROOFS. The CLUT payload codec: the faults of `CLDEC` and `CLENC`, their results, and the round trips (43_clut_codec.md
R110 to R123). -/

namespace Sys2Proof.Machine

section
variable {s : State}

/-! The bounds check that both commands share (R44, R115, R119). -/

theorem State.clutOverrun_iff {c : Nat} :
    (palOverrun c || s.bytesOverrun (c * s.cct.bpc)) = true ↔ ¬ s.ClutFits c := by
  simp only [State.ClutFits, palOverrun, State.bytesOverrun, Bool.or_eq_true, decide_eq_true_eq]
  omega

theorem State.ClutFits.not_overrun {c : Nat} (h : s.ClutFits c) :
    ¬ (palOverrun c || s.bytesOverrun (c * s.cct.bpc)) = true :=
  fun ho => State.clutOverrun_iff.1 ho h

/-- A palette that fits has a count that fits `PLEN`. -/
theorem State.ClutFits.toNat_ofNat {c : Nat} (h : s.ClutFits c) : (BitVec.ofNat 16 c).toNat = c := by
  rw [BitVec.toNat_ofNat, Nat.mod_eq_of_lt (Nat.lt_of_le_of_lt h.1 Config_palCap_bounds.2)]

theorem State.palAt_of_loop {t : State} (hd : t.memDraw = s.memDraw) {n : Nat} {v : Nat → Color}
    (hm : t.palMem = forUpTo n (fun i m => m.write i (v i)) s.palMem) (i : Nat) :
    t.palAt i = if i < n then v i else s.palAt i := by
  rw [State.palAt, palEntry, hm, read_forUpTo_write_zero, hd]
  split <;> rfl

/-! `CLDEC` (R112 to R118). -/

theorem cldec_of_not_isTrue (h : s.cct.isTrue = false) : cldec s = s.raise .badColorType :=
  if_pos (congrArg Bool.not h)

theorem cldec_of_not_clutFits (ht : s.cct.isTrue = true) (h : ¬ s.ClutFits s.clutCount) :
    cldec s = s.raise .sizeOverrun :=
  (if_neg (by simp [ht])).trans (if_pos (State.clutOverrun_iff.2 h))

/-- What `CLDEC` leaves when its checks pass (R116 to R118). -/
def State.paletteDecoded (s : State) : State :=
  { s with
    palMem := forUpTo s.clutCount (fun i m => m.write i (s.loadColor s.cct (s.bpos.toNat + s.cct.bpc * i))) s.palMem
    plen := BitVec.ofNat 16 s.clutCount
    bpos := s.posAfter (s.clutCount * s.cct.bpc) }

theorem cldec_of_clutFits (ht : s.cct.isTrue = true) (hfit : s.ClutFits s.clutCount) : cldec s = s.paletteDecoded :=
  (if_neg (by simp [ht])).trans (if_neg hfit.not_overrun)

theorem State.paletteDecoded_palAt (s : State) (i : Nat) : s.paletteDecoded.palAt i =
    if i < s.clutCount then colorOfBytes s.cct fun k => s.byteAt (s.bpos.toNat + s.cct.bpc * i + k)
    else s.palAt i := by
  rw [← State.loadColor_eq_colorOfBytes]
  exact State.palAt_of_loop (s := s) (t := s.paletteDecoded) rfl rfl i

/-! `CLENC` (R119 to R122). -/

theorem clenc_of_not_isTrue (h : s.cct.isTrue = false) : clenc s = s.raise .badColorType :=
  if_pos (congrArg Bool.not h)

theorem clenc_of_not_clutFits (ht : s.cct.isTrue = true) (h : ¬ s.ClutFits s.plen.toNat) :
    clenc s = s.raise .sizeOverrun :=
  (if_neg (by simp [ht])).trans (if_pos (State.clutOverrun_iff.2 h))

/-- What `CLENC` leaves when its checks pass (R120 to R122). -/
def State.paletteEncoded (s : State) : State :=
  { s with
    byteMem := forUpTo s.plen.toNat
      (fun i m => storeColor s.cct (s.bpos.toNat + s.cct.bpc * i) (s.palAt i) m) s.byteMem
    bpos := s.posAfter (s.plen.toNat * s.cct.bpc) }

theorem clenc_of_clutFits (ht : s.cct.isTrue = true) (hfit : s.ClutFits s.plen.toNat) : clenc s = s.paletteEncoded :=
  (if_neg (by simp [ht])).trans (if_neg hfit.not_overrun)

end

/-- Settles O49, by the loop of `CLDEC`. -/
theorem cldecResult : Obligations.CldecResult := by
  intro s ht hfit
  refine ⟨s.paletteDecoded, congrArg _ (cldec_of_clutFits ht hfit), rfl, hfit.toNat_ofNat, State.posAfter_toNat hfit.2,
    fun i hi => ?_, fun i hi => ?_⟩
  · rw [State.paletteDecoded_palAt, if_pos hi]
  · rw [State.paletteDecoded_palAt, if_neg (Nat.not_lt.2 hi)]

/-- Settles O50, by the loop of `CLENC`. -/
theorem clencResult : Obligations.ClencResult := by
  intro s ht hfit
  refine ⟨s.paletteEncoded, congrArg _ (clenc_of_clutFits ht hfit), rfl, State.posAfter_toNat hfit.2,
    fun i k v hi hv => ?_, fun a ha => ?_⟩
  · exact State.byteAt_of_read (read_forUpTo_storeColor_of_getElem? ht s.byteMem s.bpos.toNat (c := s.palAt) hi hv)
  · rw [Nat.mul_comm] at ha
    exact State.byteAt_congr (s := s) (t := s.paletteEncoded) rfl
      (read_forUpTo_storeColor_of_outside ht s.byteMem s.palAt ha)

/-- Settles O51, check by check. -/
theorem clutFaults : Obligations.ClutFaults := by
  intro s hf
  refine ⟨fun h => ?_, fun h => ?_, fun ht h => ?_, fun ht h => ?_⟩
  · exact exists_faultedAs hf (congrArg _ (cldec_of_not_isTrue h))
  · exact exists_faultedAs hf (congrArg _ (clenc_of_not_isTrue h))
  · exact exists_faultedAs hf (congrArg _ (cldec_of_not_clutFits ht h))
  · exact exists_faultedAs hf (congrArg _ (clenc_of_not_clutFits ht h))

/-! The round trips, one direction at a time (R123). -/

section
variable {s : State}

/-- Every byte of the palette's region is a byte of the colour decoded from it. -/
theorem clenc_after_cldec (ht : s.cct.isTrue = true) (hfit : s.ClutFits s.clutCount) :
    ∃ t u, exec .cldec s = .next t ∧ exec .clenc (t.atPos s.bpos) = .next u ∧ u.fault = s.fault ∧
      u.bpos = t.bpos ∧ ∀ a, u.byteAt a = s.byteAt a := by
  obtain ⟨t, hdec, hframe, hlen, hpos, hpal, -⟩ := cldecResult s ht hfit
  have hback : t.atPos s.bpos = { s with palMem := t.palMem, plen := t.plen } := congrArg (State.atPos · s.bpos) hframe
  have hcolor : ∀ i, i < s.clutCount → (t.atPos s.bpos).palAt i =
      colorOfBytes s.cct fun k => s.byteAt (s.bpos.toNat + s.cct.bpc * i + k) := hpal
  rw [hback] at hcolor
  obtain ⟨u, henc, hframe', hpos', hbytes, hout⟩ :=
    clencResult { s with palMem := t.palMem, plen := t.plen } ht (hlen.symm ▸ hfit)
  rw [hlen] at hpos' hbytes hout
  refine ⟨t, u, hdec, hback ▸ henc, (congrArg State.fault hframe' :), BitVec.eq_of_toNat_eq (hpos'.trans hpos.symm),
    fun a => ?_⟩
  by_cases ha : a < s.bpos.toNat ∨ s.bpos.toNat + s.clutCount * s.cct.bpc ≤ a
  · exact hout a ha
  · rw [Nat.mul_comm, not_or, Nat.not_lt, Nat.not_le] at ha
    obtain ⟨i, k, hi, hk, rfl⟩ := exists_pixel_of_byte (ColorType.bpc_pos ht) ha.1 ha.2
    refine hbytes i k _ hi ?_
    rw [hcolor i hi]
    exact getElem?_colorBytes_colorOfBytes ht _ hk

/-- The colour decoded is the one that the bytes of the colour encoded keep. -/
theorem cldec_after_clenc (ht : s.cct.isTrue = true) (hfit : s.ClutFits s.plen.toNat)
    (hlen : s.clbytes.toNat = s.plen.toNat * s.cct.bpc) :
    ∃ t u, exec .clenc s = .next t ∧ exec .cldec (t.atPos s.bpos) = .next u ∧ u.fault = s.fault ∧
      u.plen = s.plen ∧ ∀ i, i < s.plen.toNat → u.palAt i = colorKept s.cct (s.palAt i) := by
  obtain ⟨t, henc, hframe, -, hbytes, -⟩ := clencResult s ht hfit
  have hback : t.atPos s.bpos = { s with byteMem := t.byteMem } := congrArg (State.atPos · s.bpos) hframe
  have hbytes' : ∀ i k v, i < s.plen.toNat → (colorBytes s.cct (s.palAt i))[k]? = some v →
      (t.atPos s.bpos).byteAt (s.bpos.toNat + s.cct.bpc * i + k) = v := hbytes
  rw [hback] at hbytes'
  have hcount : ({ s with byteMem := t.byteMem } : State).clutCount = s.plen.toNat :=
    Nat.div_eq_of_eq_mul_left (ColorType.bpc_pos ht) hlen
  obtain ⟨u, hdec, hframe', hlen', -, hpal, -⟩ := cldecResult { s with byteMem := t.byteMem } ht (hcount.symm ▸ hfit)
  rw [hcount] at hlen' hpal
  refine ⟨t, u, henc, hback ▸ hdec, (congrArg State.fault hframe' :), BitVec.eq_of_toNat_eq hlen', fun i hi => ?_⟩
  rw [hpal i hi]
  exact colorOfBytes_of_colorBytes ht fun k v hv => hbytes' i k v hi hv

end

/-- Settles O52, one direction a clause. -/
theorem clutRoundTrips : Obligations.ClutRoundTrips := fun _ ht =>
  ⟨clenc_after_cldec ht, cldec_after_clenc ht⟩

end Sys2Proof.Machine
end

section
/-! PROOFS. The palette reorder engine: the loop of R125 as the permutation of R126, and the ends of `CLSWZ` and `CLCMP`
(44_clut_transform.md R124 to R131), with the overrun of `GSENC` (45_gstex.md R138). -/

namespace Sys2Proof.Machine

/-! The permutation `s` (R126): it acts inside each run of 32, and undoes itself. -/

theorem swapPos_swapPos (i : Nat) : swapPos (swapPos i) = i := by
  simp only [swapPos]
  split_ifs <;> omega

theorem swapPos_div (i : Nat) : swapPos i / 32 = i / 32 := by
  simp only [swapPos]
  split_ifs <;> omega

theorem swapPos_lt_iff {i n : Nat} : swapPos i < 32 * n ↔ i < 32 * n := by
  have hrun := swapPos_div i
  omega

/-! What PAL reads after the swaps of R125, from one exchange to all the runs. -/

section
variable (d : Nat) (m : Memory Color)

theorem palEntry_write (i : Nat) (c : Color) (k : Nat) :
    palEntry d (m.write i c) k = if k = i then c else palEntry d m k :=
  Memory.getD_read_write m i k c _

theorem palEntry_swapEntries (i j k : Nat) :
    palEntry d (swapEntries d i j m) k = palEntry d m (Equiv.swap i j k) := by
  rw [swapEntries, palEntry_write, palEntry_write]
  rcases eq_or_ne k j with rfl | hj
  · rw [if_pos rfl, Equiv.swap_apply_right]
  rcases eq_or_ne k i with rfl | hi
  · rw [if_neg hj, if_pos rfl, Equiv.swap_apply_left]
  · rw [if_neg hj, if_neg hi, Equiv.swap_apply_of_ne_of_ne hi hj]

/-- The first `n` exchanges of a run: `base + 8 .. base + 7 + n` with `base + 16 .. base + 15 + n`. -/
theorem palEntry_forUpTo_swapEntries (base k : Nat) {n : Nat} (hn : n ≤ 8) :
    palEntry d (forUpTo n (fun j m => swapEntries d (base + 8 + j) (base + 16 + j) m) m) k =
      palEntry d m
        (if base + 8 ≤ k ∧ k < base + 8 + n then k + 8
         else if base + 16 ≤ k ∧ k < base + 16 + n then k - 8 else k) := by
  induction n generalizing k with
  | zero =>
    rw [forUpTo, if_neg (by omega), if_neg (by omega)]
  | succ n ih =>
    rw [forUpTo, palEntry_swapEntries, ih _ (by omega), Equiv.swap_apply_def]
    congr 1
    split_ifs <;> omega

theorem palEntry_swapRun (r k : Nat) :
    palEntry d (swapRun d (32 * r) m) k = palEntry d m (if k / 32 = r then swapPos k else k) := by
  rw [swapRun, palEntry_forUpTo_swapEntries d m (32 * r) k le_rfl, swapPos]
  congr 1
  split_ifs <;> omega

/-- Pass `n` permutes run `n`, where the earlier passes have changed nothing. -/
theorem palEntry_forUpTo_swapRun (n k : Nat) :
    palEntry d (forUpTo n (fun r m => swapRun d (32 * r) m) m) k =
      palEntry d m (if k < 32 * n then swapPos k else k) := by
  induction n generalizing k with
  | zero => rw [forUpTo, if_neg (by omega)]
  | succ n ih =>
    rw [forUpTo, palEntry_swapRun, ih]
    congr 1
    by_cases hrun : k / 32 = n
    · rw [if_pos hrun, if_neg (by rw [swapPos_lt_iff]; omega), if_pos (by omega)]
    · have hlt : k < 32 * (n + 1) ↔ k < 32 * n := by omega
      simp only [if_neg hrun, hlt]

end

/-! The two ways out of `CLSWZ` (R125). -/

section
variable {s : State}

theorem exec_clswz (s : State) : exec .clswz s = .next (swapPalette s) := rfl

theorem swapPalette_of_overrun (h : Config.palCap < s.plen.toNat) : swapPalette s = s.raise .sizeOverrun :=
  if_pos (decide_eq_true h)

/-- What the swap leaves when the palette fits PAL (R125). -/
def State.paletteSwapped (s : State) : State :=
  { s with palMem := forUpTo (s.plen.toNat / 32) (fun r m => swapRun s.memDraw (32 * r) m) s.palMem }

theorem swapPalette_of_le (h : s.plen.toNat ≤ Config.palCap) : swapPalette s = s.paletteSwapped :=
  if_neg (by simp [palOverrun_eq_false.2 h])

theorem exec_clswz_of_le (h : s.plen.toNat ≤ Config.palCap) : exec .clswz s = .next s.paletteSwapped := by
  rw [exec_clswz, swapPalette_of_le h]

theorem State.paletteSwapped_palAt (s : State) (k : Nat) :
    s.paletteSwapped.palAt k = s.palAt (if k < 32 * (s.plen.toNat / 32) then swapPos k else k) :=
  palEntry_forUpTo_swapRun s.memDraw s.palMem _ k

theorem State.paletteSwapped_palAt_of_lt {i : Nat} (hi : i < 32 * (s.plen.toNat / 32)) :
    s.paletteSwapped.palAt i = s.palAt (swapPos i) := by
  rw [State.paletteSwapped_palAt, if_pos hi]

theorem State.paletteSwapped_palAt_of_le {i : Nat} (hi : 32 * (s.plen.toNat / 32) ≤ i) :
    s.paletteSwapped.palAt i = s.palAt i := by
  rw [State.paletteSwapped_palAt, if_neg (Nat.not_lt.2 hi)]

/-- The second swap moves each entry back. -/
theorem State.paletteSwapped_paletteSwapped_palAt (s : State) (k : Nat) :
    s.paletteSwapped.paletteSwapped.palAt k = s.palAt k := by
  rcases Nat.lt_or_ge k (32 * (s.plen.toNat / 32)) with hk | hk
  · have hsnd : s.paletteSwapped.paletteSwapped.palAt k = s.paletteSwapped.palAt (swapPos k) :=
      State.paletteSwapped_palAt_of_lt hk
    rw [hsnd, State.paletteSwapped_palAt_of_lt (swapPos_lt_iff.2 hk), swapPos_swapPos]
  · have hsnd : s.paletteSwapped.paletteSwapped.palAt k = s.paletteSwapped.palAt k :=
      State.paletteSwapped_palAt_of_le hk
    rw [hsnd, State.paletteSwapped_palAt_of_le hk]

/-! The test of `CLCMP` (R128, R129). -/

theorem colorTypeOf_eq_indexColor4_iff (tag : BitVec 3) : colorTypeOf tag = .indexColor4 ↔ tag = 4#3 := by
  revert tag
  decide

theorem State.swapApplies_iff : s.swapApplies = true ↔
    s.cfg.getLsbD 6 = true ∧ ¬ (s.cfg.extractLsb' 0 3 = 4#3 ∧ s.cfg.getLsbD 7 = false) := by
  simp [State.swapApplies, State.csm1, State.ict, State.ccf, colorTypeOf_eq_indexColor4_iff,
    imp_iff_not_or]

theorem exec_clcmp (s : State) : exec .clcmp s = .next (if s.swapApplies then swapPalette s else s) := rfl

theorem exec_clcmp_of_swapApplies (h : s.swapApplies = true) : exec .clcmp s = exec .clswz s := by
  rw [exec_clcmp, if_pos h, exec_clswz]

theorem exec_clcmp_of_not_swapApplies (h : ¬ s.swapApplies = true) : exec .clcmp s = .next s := by
  rw [exec_clcmp, if_neg h]

end

/-- Settles O53, by the loop of `CLSWZ`. -/
theorem clswzPermutesThePalette : Obligations.ClswzPermutesThePalette :=
  ⟨swapPos_swapPos, fun s h => ⟨s.paletteSwapped, exec_clswz_of_le h, rfl,
    fun _ => State.paletteSwapped_palAt_of_lt, fun _ => State.paletteSwapped_palAt_of_le⟩⟩

/-- Settles O54: `CLCMP`, whose test reads `CFG` alone, swaps both times or neither. -/
theorem reorderTwiceRestores : Obligations.ReorderTwiceRestores := by
  intro i hi s h
  have hfst : exec .clswz s = .next s.paletteSwapped := exec_clswz_of_le h
  have hsnd : exec .clswz s.paletteSwapped = .next s.paletteSwapped.paletteSwapped := exec_clswz_of_le h
  have hi : i = .clswz ∨ i = .clcmp := by simpa using hi
  obtain rfl | rfl := hi
  · exact ⟨_, _, hfst, hsnd, rfl, rfl, s.paletteSwapped_paletteSwapped_palAt⟩
  · by_cases htest : s.swapApplies = true
    · have htest' : s.paletteSwapped.swapApplies = true := htest
      exact ⟨_, _, (exec_clcmp_of_swapApplies htest).trans hfst, (exec_clcmp_of_swapApplies htest').trans hsnd, rfl, rfl,
        s.paletteSwapped_paletteSwapped_palAt⟩
    · have hkept := exec_clcmp_of_not_swapApplies htest
      exact ⟨s, s, hkept, hkept, rfl, rfl, fun _ => rfl⟩

/-- Settles O55, by the test of R128. -/
theorem clcmpFollowsItsTest : Obligations.ClcmpFollowsItsTest := by
  intro s
  rw [← State.swapApplies_iff]
  refine ⟨fun htest => ⟨swapPalette s, exec_clcmp_of_swapApplies htest, rfl, fun hle => ?_, fun hover hf => ?_⟩,
    exec_clcmp_of_not_swapApplies⟩
  · rw [swapPalette_of_le hle]
    exact ⟨rfl, fun _ => State.paletteSwapped_palAt_of_lt, fun _ => State.paletteSwapped_palAt_of_le⟩
  · rw [swapPalette_of_overrun hover]
    exact State.faultedAs_raise hf _

/-! The overrun of `GSENC` (R138). -/

theorem exec_gsenc (s : State) : exec .gsenc s = .next (gsenc s) := rfl

theorem gsenc_of_overrun {s : State} (h : Config.byteSize < s.bpos.toNat + 16) : gsenc s = s.raise .sizeOverrun :=
  if_pos (decide_eq_true h)

/-- Settles O56, by the bounds check that each command makes first. -/
theorem clswzAndGsencOverrunFault : Obligations.ClswzAndGsencOverrunFault := by
  refine fun s hf => ⟨fun h => exists_faultedAs hf ?_, fun h => exists_faultedAs hf ?_⟩
  · rw [exec_clswz, swapPalette_of_overrun h]
  · rw [exec_gsenc, gsenc_of_overrun h]

end Sys2Proof.Machine
end

section
/-! PROOFS. The GsTex register words: the nineteen fields as slices of the two words, the words as their fields in place,
the ends of `GSDEC` and `GSENC`, and the round trips (45_gstex.md R132 to R141). -/

namespace Sys2Proof.Machine

/-! One field of a word: `unpack_64` takes a slice, and `pack_64` writes its own slice alone (R133, R139). -/

theorem setWidth_unpackW (w : BitVec 64) {n : Nat} (hn : 1 ≤ n) (lo : Nat) :
    (unpackW 64 w n lo).setWidth n = w.extractLsb' lo n := by
  apply BitVec.eq_of_toNat_eq
  rw [BitVec.toNat_setWidth, unpackW_toNat le_rfl w hn, Nat.mod_mod, Nat.mod_eq_of_lt w.isLt, BitVec.extractLsb'_toNat]

section
variable {n lo : Nat} (f : BitVec n) (w : BitVec 64)

theorem getLsbD_packField {j : Nat} (hj : j < 64) :
    (packField f lo w).getLsbD j = (w.getLsbD j || (decide (lo ≤ j) && f.getLsbD (j - lo))) := by
  rw [packField, getLsbD_packW le_rfl, BitVec.getLsbD_setWidth]
  simp [hj, show j - lo < 64 by omega]

theorem extractLsb'_packField_of_disjoint {lo' n' : Nat} (hfit : lo' + n' ≤ 64) (h : lo' + n' ≤ lo ∨ lo + n ≤ lo') :
    (packField f lo w).extractLsb' lo' n' = w.extractLsb' lo' n' := by
  refine BitVec.eq_of_getLsbD_eq fun j hj => ?_
  have hf : (decide (lo ≤ lo' + j) && f.getLsbD (lo' + j - lo)) = false := by
    obtain hbelow | habove := h
    · simp [show ¬ lo ≤ lo' + j by omega]
    · simp [BitVec.getLsbD_of_ge f (lo' + j - lo) (by omega)]
  rw [BitVec.getLsbD_extractLsb', BitVec.getLsbD_extractLsb', getLsbD_packField f w (by omega), hf, Bool.or_false]

theorem extractLsb'_packField_self (hfit : lo + n ≤ 64) (hw : w.extractLsb' lo n = 0) :
    (packField f lo w).extractLsb' lo n = f := by
  refine BitVec.eq_of_getLsbD_eq fun j hj => ?_
  have hwj : w.getLsbD (lo + j) = false := by simpa [hj] using congrArg (BitVec.getLsbD · j) hw
  rw [BitVec.getLsbD_extractLsb', getLsbD_packField f w (by omega), hwj]
  simp [hj]

/-- A field outside the bits of `m` leaves them 0. -/
theorem and_packField_eq_zero {m : BitVec 64} (hm : m.extractLsb' lo n = 0) (hw : w &&& m = 0) :
    packField f lo w &&& m = 0 := by
  refine BitVec.eq_of_getLsbD_eq fun j hj => ?_
  have hwj : (w.getLsbD j && m.getLsbD j) = false := by simpa using congrArg (BitVec.getLsbD · j) hw
  have hfj : (decide (lo ≤ j) && f.getLsbD (j - lo) && m.getLsbD j) = false := by
    by_cases hin : lo ≤ j ∧ j - lo < n
    · have hmj : m.getLsbD (lo + (j - lo)) = false := by simpa [hin.2] using congrArg (BitVec.getLsbD · (j - lo)) hm
      rw [Nat.add_sub_cancel' hin.1] at hmj
      rw [hmj, Bool.and_false]
    · obtain hlo | hhi := not_and_or.1 hin
      · simp [hlo]
      · simp [BitVec.getLsbD_of_ge f (j - lo) (by omega)]
  rw [BitVec.getLsbD_and, getLsbD_packField f w hj, Bool.and_or_distrib_right, hwj, hfj]
  simp

end

/-! The two words and the nineteen fields (R24, R133). -/

theorem gfOfWords_eq_slices (w0 w1 : BitVec 64) : gfOfWords w0 w1 =
    { bp := w0.extractLsb' 0 14, bw := w0.extractLsb' 14 6, psm := w0.extractLsb' 20 6, wl2 := w0.extractLsb' 26 4,
      hl2 := w0.extractLsb' 30 4, cc := w0.extractLsb' 34 1, tf := w0.extractLsb' 35 2, cbp := w0.extractLsb' 37 14,
      cpsm := w0.extractLsb' 51 4, csm := w0.extractLsb' 55 1, csa := w0.extractLsb' 56 5, clc := w0.extractLsb' 61 3,
      lcm := w1.extractLsb' 0 1, mxl := w1.extractLsb' 2 3, mmag := w1.extractLsb' 5 1, mmin := w1.extractLsb' 6 3,
      mba := w1.extractLsb' 9 1, lodl := w1.extractLsb' 19 2, lodk := w1.extractLsb' 32 12 } := by
  simp [gfOfWords, setWidth_unpackW]

/-- The fields of the two words built from `g` are `g`: no field overlaps another. -/
theorem gfOfWords_gsWords (g : GsFields) : gfOfWords (gsWord0 g) (gsWord1 g) = g := by
  simp [gfOfWords_eq_slices, gsWord0, gsWord1, extractLsb'_packField_of_disjoint, extractLsb'_packField_self]

theorem gsWord1_and_reservedBits1 (g : GsFields) : gsWord1 g &&& reservedBits1 = 0 := by
  rw [gsWord1]
  iterate 7 refine and_packField_eq_zero _ _ (by decide) ?_
  exact BitVec.zero_and

/-- Word 0 as its fields in place. -/
def GsFields.word0 (g : GsFields) : BitVec 64 :=
  g.clc ++ g.csa ++ g.csm ++ g.cpsm ++ g.cbp ++ g.tf ++ g.cc ++ g.hl2 ++ g.wl2 ++ g.psm ++ g.bw ++ g.bp

/-- Word 1 as its fields in place, 0 in every reserved bit. -/
def GsFields.word1 (g : GsFields) : BitVec 64 :=
  0#20 ++ g.lodk ++ 0#11 ++ g.lodl ++ 0#9 ++ g.mba ++ g.mmin ++ g.mmag ++ g.mxl ++ 0#1 ++ g.lcm

/-- A slice joined to the one just below it. -/
theorem append_extractLsb' {w hi lo m n : Nat} {x : BitVec w} {y : BitVec m} (hy : y = x.extractLsb' hi m)
    (h : hi = lo + n) : y ++ x.extractLsb' lo n = x.extractLsb' lo (m + n) := by
  rw [hy, BitVec.extractLsb'_append_extractLsb'_eq_extractLsb' h]

theorem word0_gfOfWords (w0 w1 : BitVec 64) : (gfOfWords w0 w1).word0 = w0 := by
  rw [gfOfWords_eq_slices, GsFields.word0]
  refine Eq.trans ?_ BitVec.extractLsb'_eq_self
  iterate 11 refine append_extractLsb' ?_ rfl
  rfl

/-- A slice of a word is 0 where every bit of a mask that the word does not meet is 1. -/
theorem extractLsb'_eq_zero_of_and {w m : BitVec 64} (h : w &&& m = 0) {lo n : Nat}
    (hm : m.extractLsb' lo n = BitVec.allOnes n) : w.extractLsb' lo n = 0#n := by
  simpa [BitVec.extractLsb'_and, hm] using congrArg (BitVec.extractLsb' lo n) h

theorem word1_gfOfWords (w0 : BitVec 64) {w1 : BitVec 64} (h : w1 &&& reservedBits1 = 0) :
    (gfOfWords w0 w1).word1 = w1 := by
  have h1 : w1.extractLsb' 1 1 = 0#1 := extractLsb'_eq_zero_of_and h (by decide)
  have h10 : w1.extractLsb' 10 9 = 0#9 := extractLsb'_eq_zero_of_and h (by decide)
  have h21 : w1.extractLsb' 21 11 = 0#11 := extractLsb'_eq_zero_of_and h (by decide)
  have h44 : w1.extractLsb' 44 20 = 0#20 := extractLsb'_eq_zero_of_and h (by decide)
  rw [gfOfWords_eq_slices, GsFields.word1, ← h1, ← h10, ← h21, ← h44]
  refine Eq.trans ?_ BitVec.extractLsb'_eq_self
  iterate 10 refine append_extractLsb' ?_ rfl
  rfl

theorem gsWord0_eq_word0 (g : GsFields) : gsWord0 g = g.word0 :=
  (word0_gfOfWords _ _).symm.trans (congrArg GsFields.word0 (gfOfWords_gsWords g))

theorem gsWord1_eq_word1 (g : GsFields) : gsWord1 g = g.word1 :=
  (word1_gfOfWords _ (gsWord1_and_reservedBits1 g)).symm.trans (congrArg GsFields.word1 (gfOfWords_gsWords g))

theorem gsWord0_gfOfWords (w0 w1 : BitVec 64) : gsWord0 (gfOfWords w0 w1) = w0 := by
  rw [gsWord0_eq_word0, word0_gfOfWords]

theorem gsWord1_gfOfWords (w0 : BitVec 64) {w1 : BitVec 64} (h : w1 &&& reservedBits1 = 0) :
    gsWord1 (gfOfWords w0 w1) = w1 := by
  rw [gsWord1_eq_word1, word1_gfOfWords w0 h]

/-! The word that eight bytes of BYTE make (R38, R42). -/

/-- The little-endian word at `a`. -/
def State.wordAt (s : State) (a : Nat) : BitVec 64 := BitVec.ofNat 64 (s.memRead a 8)

theorem State.extractLsb'_wordAt (s : State) (a : Nat) {k : Nat} (hk : k < 8) :
    (s.wordAt a).extractLsb' (8 * k) 8 = s.byteAt (a + k) := by
  apply BitVec.eq_of_toNat_eq
  rw [BitVec.extractLsb'_toNat, State.wordAt, BitVec.toNat_ofNat, Nat.mod_eq_of_lt (s.memRead_lt a 8)]
  exact s.memRead_byte a hk

/-! The ends of `GSDEC` (R134, R135). -/

theorem exec_gsdec (s : State) : exec .gsdec s = .next (gsdec s) := rfl

/-- The state after a `GSDEC` that reads `w0` and `w1` and passes its checks. -/
def State.gsDecoded (s : State) (w0 w1 : BitVec 64) : State :=
  { s with tex0 := w0, tex1 := w1, gf := gfOfWords w0 w1, bpos := s.posAfter 16 }

section
variable {s : State}

theorem gsdec_of_overrun (h : Config.byteSize < s.bpos.toNat + 16) : gsdec s = s.raise .sizeOverrun :=
  if_pos (decide_eq_true h)

theorem gsdec_of_reserved (hfit : s.bpos.toNat + 16 ≤ Config.byteSize)
    (hres : s.wordAt (s.bpos.toNat + 8) &&& reservedBits1 ≠ 0) : gsdec s = s.raise .invalidRegisterData :=
  (if_neg (Bool.eq_false_iff.1 (State.bytesOverrun_eq_false.2 hfit))).trans (if_pos hres)

theorem gsdec_of_not_reserved (hfit : s.bpos.toNat + 16 ≤ Config.byteSize)
    (hres : s.wordAt (s.bpos.toNat + 8) &&& reservedBits1 = 0) :
    gsdec s = s.gsDecoded (s.wordAt s.bpos.toNat) (s.wordAt (s.bpos.toNat + 8)) :=
  (if_neg (Bool.eq_false_iff.1 (State.bytesOverrun_eq_false.2 hfit))).trans (if_neg (not_not.2 hres))

theorem exec_gsdec_of_bytes {w0 w1 : BitVec 64} (hfit : s.bpos.toNat + 16 ≤ Config.byteSize)
    (h0 : ∀ k, k < 8 → s.byteAt (s.bpos.toNat + k) = w0.extractLsb' (8 * k) 8)
    (h1 : ∀ k, k < 8 → s.byteAt (s.bpos.toNat + 8 + k) = w1.extractLsb' (8 * k) 8)
    (hres : w1 &&& reservedBits1 = 0) : exec .gsdec s = .next (s.gsDecoded w0 w1) := by
  have hw0 : s.wordAt s.bpos.toNat = w0 := s.memRead_word _ w0 h0
  have hw1 : s.wordAt (s.bpos.toNat + 8) = w1 := s.memRead_word _ w1 h1
  rw [exec_gsdec, gsdec_of_not_reserved hfit (hw1 ▸ hres), hw0, hw1]

/-- A `GSDEC` that ends without a fault has met no reserved bit, and has decoded the two words at `BPOS`. -/
theorem eq_gsDecoded_of_exec_gsdec {t : State} (hfit : s.bpos.toNat + 16 ≤ Config.byteSize)
    (hexec : exec .gsdec s = .next t) (hf : t.fault = false) :
    s.wordAt (s.bpos.toNat + 8) &&& reservedBits1 = 0 ∧
      t = s.gsDecoded (s.wordAt s.bpos.toNat) (s.wordAt (s.bpos.toNat + 8)) := by
  obtain rfl : gsdec s = t := Host.Outcome.next.inj hexec
  by_cases hres : s.wordAt (s.bpos.toNat + 8) &&& reservedBits1 = 0
  · exact ⟨hres, gsdec_of_not_reserved hfit hres⟩
  · rw [gsdec_of_reserved hfit hres, State.fault_raise] at hf
    cases hf

end

/-- Settles O57: the words read are `w0` and `w1`, whose slices are the fields. -/
theorem gsdecResult : Obligations.GsdecResult := by
  intro s w0 w1 hfit h0 h1 hres
  refine ⟨s.gsDecoded w0 w1, exec_gsdec_of_bytes hfit h0 h1 hres, ?_, State.posAfter_toNat hfit⟩
  rw [← gfOfWords_eq_slices]
  rfl

/-- Settles O58, by the two checks in their order. -/
theorem gsdecFaults : Obligations.GsdecFaults := by
  refine fun s hf => ⟨fun h => exists_faultedAs hf ?_, fun w1 hfit h1 hres => exists_faultedAs hf ?_⟩
  · rw [exec_gsdec, gsdec_of_overrun h]
  · have hw1 : s.wordAt (s.bpos.toNat + 8) = w1 := s.memRead_word _ w1 h1
    rw [exec_gsdec, gsdec_of_reserved hfit (hw1 ▸ hres)]

/-! The result of `GSENC` (R138). -/

/-- The state after a `GSENC` that passes its check. -/
def State.gsEncoded (s : State) : State :=
  { s with
    tex0 := gsWord0 s.gf
    tex1 := gsWord1 s.gf
    byteMem := storeWords s.byteMem s.bpos.toNat (gsWord0 s.gf) (gsWord1 s.gf)
    bpos := s.posAfter 16 }

section
variable {s : State}

theorem exec_gsenc_of_fits (hfit : s.bpos.toNat + 16 ≤ Config.byteSize) : exec .gsenc s = .next s.gsEncoded := by
  rw [exec_gsenc, gsenc, if_neg (Bool.eq_false_iff.1 (State.bytesOverrun_eq_false.2 hfit)), State.gsEncoded]

theorem State.gsEncoded_byteAt (s : State) (a : Nat) : s.gsEncoded.byteAt a =
    if s.bpos.toNat + 8 ≤ a ∧ a < s.bpos.toNat + 16 then (gsWord1 s.gf).extractLsb' (8 * (a - (s.bpos.toNat + 8))) 8
    else if s.bpos.toNat ≤ a ∧ a < s.bpos.toNat + 8 then (gsWord0 s.gf).extractLsb' (8 * (a - s.bpos.toNat)) 8
    else s.byteAt a := by
  simp only [State.byteAt, State.gsEncoded, read_storeWords]
  split
  · rfl
  · split <;> rfl

theorem State.gsEncoded_byteAt_word0 {k : Nat} (hk : k < 8) :
    s.gsEncoded.byteAt (s.bpos.toNat + k) = (gsWord0 s.gf).extractLsb' (8 * k) 8 := by
  rw [State.gsEncoded_byteAt, if_neg (by omega), if_pos (by omega), Nat.add_sub_cancel_left]

theorem State.gsEncoded_byteAt_word1 {k : Nat} (hk : k < 8) :
    s.gsEncoded.byteAt (s.bpos.toNat + 8 + k) = (gsWord1 s.gf).extractLsb' (8 * k) 8 := by
  rw [State.gsEncoded_byteAt, if_pos (by omega), Nat.add_sub_cancel_left]

theorem State.gsEncoded_byteAt_of_outside {a : Nat} (ha : a < s.bpos.toNat ∨ s.bpos.toNat + 16 ≤ a) :
    s.gsEncoded.byteAt a = s.byteAt a := by
  rw [State.gsEncoded_byteAt, if_neg (by omega), if_neg (by omega)]

/-- Storing the bytes that lie at `BPOS` already changes no byte. -/
theorem State.gsEncoded_byteAt_of_bytes
    (h0 : ∀ k, k < 8 → s.byteAt (s.bpos.toNat + k) = (gsWord0 s.gf).extractLsb' (8 * k) 8)
    (h1 : ∀ k, k < 8 → s.byteAt (s.bpos.toNat + 8 + k) = (gsWord1 s.gf).extractLsb' (8 * k) 8) (a : Nat) :
    s.gsEncoded.byteAt a = s.byteAt a := by
  rw [State.gsEncoded_byteAt]
  split
  next hin => rw [← h1 _ (by omega), Nat.add_sub_cancel' hin.1]
  next =>
    split
    next hin => rw [← h0 _ (by omega), Nat.add_sub_cancel' hin.1]
    next => rfl

end

/-- Settles O59: each word built is its fields in place, and each byte is read back through the store. -/
theorem gsencResult : Obligations.GsencResult := fun s hfit =>
  ⟨s.gsEncoded, exec_gsenc_of_fits hfit, rfl, State.posAfter_toNat hfit, gsWord0_eq_word0 s.gf,
    gsWord1_eq_word1 s.gf, fun _ => State.gsEncoded_byteAt_word0, fun _ => State.gsEncoded_byteAt_word1,
    fun _ => State.gsEncoded_byteAt_of_outside⟩

/-! The round trips, one direction at a time (R140). -/

section
variable {s : State} (hfit : s.bpos.toNat + 16 ≤ Config.byteSize)
include hfit

/-- `GSDEC` reads the words just built, none of whose reserved bits is set. -/
theorem gsdec_after_gsenc : ∃ t u, exec .gsenc s = .next t ∧ exec .gsdec (t.atPos s.bpos) = .next u ∧ u.gf = s.gf ∧
    u.fault = s.fault ∧ u.bpos = t.bpos := by
  have hdec := exec_gsdec_of_bytes (s := s.gsEncoded.atPos s.bpos) hfit (fun _ => State.gsEncoded_byteAt_word0)
    (fun _ => State.gsEncoded_byteAt_word1) (gsWord1_and_reservedBits1 s.gf)
  exact ⟨s.gsEncoded, _, exec_gsenc_of_fits hfit, hdec, gfOfWords_gsWords s.gf, rfl, rfl⟩

/-- `GSENC` builds the words just read, for word 1 has no reserved bit to lose, and stores them where they lie. -/
theorem exec_gsenc_of_gsDecoded {w0 w1 : BitVec 64}
    (h0 : ∀ k, k < 8 → s.byteAt (s.bpos.toNat + k) = w0.extractLsb' (8 * k) 8)
    (h1 : ∀ k, k < 8 → s.byteAt (s.bpos.toNat + 8 + k) = w1.extractLsb' (8 * k) 8)
    (hres : w1 &&& reservedBits1 = 0) :
    ∃ u, exec .gsenc ((s.gsDecoded w0 w1).atPos s.bpos) = .next u ∧ u.fault = s.fault ∧
      u.bpos = (s.gsDecoded w0 w1).bpos ∧ u.tex0 = w0 ∧ u.tex1 = w1 ∧ ∀ a, u.byteAt a = s.byteAt a := by
  have hw0 : gsWord0 (gfOfWords w0 w1) = w0 := gsWord0_gfOfWords w0 w1
  have hw1 : gsWord1 (gfOfWords w0 w1) = w1 := gsWord1_gfOfWords w0 hres
  rw [← hw0] at h0
  rw [← hw1] at h1
  exact ⟨_, exec_gsenc_of_fits hfit, rfl, rfl, hw0, hw1, State.gsEncoded_byteAt_of_bytes h0 h1⟩

theorem gsenc_after_gsdec {t : State} (hexec : exec .gsdec s = .next t) (hf : t.fault = false) :
    ∃ u, exec .gsenc (t.atPos s.bpos) = .next u ∧ u.fault = false ∧ u.bpos = t.bpos ∧ u.tex0 = t.tex0 ∧
      u.tex1 = t.tex1 ∧ ∀ a, u.byteAt a = s.byteAt a := by
  obtain ⟨hres, rfl⟩ := eq_gsDecoded_of_exec_gsdec hfit hexec hf
  obtain ⟨u, henc, hfault, hrest⟩ := exec_gsenc_of_gsDecoded hfit (fun _ hk => (s.extractLsb'_wordAt _ hk).symm)
    (fun _ hk => (s.extractLsb'_wordAt _ hk).symm) hres
  exact ⟨u, henc, hfault.trans hf, hrest⟩

end

/-- Settles O60, one direction a clause. -/
theorem gsTexRoundTrips : Obligations.GsTexRoundTrips := fun _ hfit =>
  ⟨gsdec_after_gsenc hfit, fun _ _ => gsenc_after_gsdec hfit⟩

end Sys2Proof.Machine
end

section
/-! PROOFS. `RST`: its effect, and the word that issues it in every state (46_system.md R145, R146). -/

namespace Sys2Proof.Machine

section
variable (s : State)

/-- `RST` leaves the reset values of R35 (R145). -/
theorem State.clearRegisters_registersReset : s.clearRegisters.RegistersReset := { resetValues.1 with }

theorem exec_rst : exec .rst s = .next s.clearRegisters := rfl

/-- `RST` has cleared `BUSY` before it completes. -/
theorem State.complete_clearRegisters : s.clearRegisters.complete = s.clearRegisters := by
  rw [State.complete, State.clearRegisters_status]
  rfl

theorem State.clearRegisters_begin : s.begin.clearRegisters = s.clearRegisters := rfl

theorem completed_exec_rst : completed (exec .rst s) = .next s.clearRegisters := by
  rw [exec_rst, completed, State.complete_clearRegisters]

theorem decode_rstWord : decode rstWord = .ok .rst := decodeOfEncode .rst rfl

/-- The fault state knows the word itself; outside it the decoder does (R146). -/
theorem issue_rstWord : s.issue rstWord = .next s.clearRegisters := by
  cases hf : s.fault with
  | true => rw [State.issue, if_pos hf, if_pos rfl, completed_exec_rst]
  | false => rw [issue_of_decode hf decode_rstWord, completed_exec_rst, State.clearRegisters_begin]

end

/-- A write to `CMD` is not ignored in the fault state, and 0x000000FF fits its port. -/
theorem step_rstWord {s : State} {rest : List HostAction} (hbusy : s.busy = false)
    (hin : s.inbox = .write 0 0x000000FF :: rest) :
    step s = .next ({ s with inbox := rest } : State).clearRegisters := by
  rw [step_eq_act hin hbusy (Bool.and_false _) (tooWide_write.2 (by decide)) rfl, act_write_cmd]
  exact issue_rstWord _

/-- Settles O10. -/
theorem rstResetsRegistersAndKeepsMemories : Obligations.RstResetsRegistersAndKeepsMemories := fun s =>
  ⟨s.clearRegisters, exec_rst s, s.clearRegisters_registersReset, rfl⟩

/-- Settles O11: with or without a fault the word has the effect of `RST` on the state without the action taken. -/
theorem rstWordActsInEveryState : Obligations.RstWordActsInEveryState := fun _ _ hbusy hin =>
  ⟨_, step_rstWord hbusy hin, State.clearRegisters_registersReset _, rfl⟩

end Sys2Proof.Machine
end

section
/-! PROOFS. Faults: the entry, what a command that faults has done, and the fault state at the host's side
(60_exceptions.md R159 to R165). -/

namespace Sys2Proof.Machine

/-! Fault entry (R159, R160). -/

/-- `STATUS[7:2]` is not the fault entry's to write. -/
theorem statusFaulted_getLsbD_of_two_le (st : BitVec 8) {k : Nat} (hk : 2 ≤ k) :
    (statusFaulted st).getLsbD k = st.getLsbD k := by
  by_cases h8 : k < 8
  · interval_cases k <;> simp [statusFaulted]
  · rw [BitVec.getLsbD_of_ge _ _ (Nat.not_lt.1 h8), BitVec.getLsbD_of_ge _ _ (Nat.not_lt.1 h8)]

/-- Settles O27: the entry writes `STATUS` and `CAUSE`, and R159's table gives the codes. -/
theorem faultEntry : Obligations.FaultEntry :=
  ⟨fun s c hf => ⟨State.raise_cause_of_not_fault hf c, s.fault_raise c, s.busy_raise c, rfl,
    fun _ hk => statusFaulted_getLsbD_of_two_le s.status hk⟩, rfl, rfl, rfl, rfl, rfl, rfl⟩

theorem causeCode_eq_six_iff (c : Cause) : causeCode c = 6 ↔ c = .indexRange := by
  cases c <;> decide

theorem State.raise_indexRange_cause {s : State} (hf : s.fault = false) : (s.raise .indexRange).cause = 6 :=
  State.raise_cause_of_not_fault hf _

/-! What a command that faults has done (R159, R162). -/

section
variable {i : Instr} {s t : State}

/-- A command that raises a first fault reported a listed cause and did nothing else, or scrambled its destination region
and reported `IndexRange`. -/
theorem Effect.fault_cases (h : Effect s i t) (hs : s.fault = false) (ht : t.fault = true) :
    (∃ c ∈ causesOf i, c ≠ .indexRange ∧ t = s.raise c) ∨
    (i = .pxdec ∧ t = (s.scramblePix s.pixelCount).raise .indexRange) ∨
    (i = .pxres ∧ t = (s.scrambleColors s.pixelCount).raise .indexRange) ∨
    (i = .pxenci ∧ t = (s.scrambleBytes (pixelBytes s.ict s.pixelCount)).raise .indexRange) := by
  cases h with
  | raised c hc hne => exact .inl ⟨c, hc, hne, rfl⟩
  | pxdecIndexRange => exact .inr (.inl ⟨rfl, rfl⟩)
  | pxresIndexRange => exact .inr (.inr (.inl ⟨rfl, rfl⟩))
  | pxenciIndexRange => exact .inr (.inr (.inr ⟨rfl, rfl⟩))
  | rst => exact absurd ht (by simp [State.fault])
  | _ => exact absurd (hs.symm.trans ht) Bool.false_ne_true

theorem Effect.cause_listed (h : Effect s i t) (hs : s.fault = false) (ht : t.fault = true) :
    ∃ c ∈ causesOf i, t.cause = causeCode c := by
  rcases h.fault_cases hs ht with ⟨c, hc, -, rfl⟩ | ⟨rfl, rfl⟩ | ⟨rfl, rfl⟩ | ⟨rfl, rfl⟩
  · exact ⟨c, hc, State.raise_cause_of_not_fault hs c⟩
  all_goals exact ⟨.indexRange, by decide, State.raise_cause_of_not_fault hs _⟩

end

/-- Settles O24: the cause by the footprint, and `CLCMP` with a false test leaves the state as it was. -/
theorem commandsFaultOnlyAsListed : Obligations.CommandsFaultOnlyAsListed := by
  intro i s t hs h ht
  refine ⟨(effect_of_exec h).cause_listed hs ht, ?_⟩
  rintro rfl
  by_contra happ
  rw [exec_clcmp_of_not_swapApplies happ] at h
  obtain rfl := Host.Outcome.next.inj h
  exact Bool.false_ne_true (hs.symm.trans ht)

/-! The region of an `IndexRange` fault (R162). -/

section
variable (s : State) {n : Nat}

theorem State.scramblePix_pixAt_of_le {j : Nat} (hj : n ≤ j) : (s.scramblePix n).pixAt j = s.pixAt j :=
  (State.pixAt_of_loop (s := s) (t := s.scramblePix n) rfl rfl j).trans (if_neg hj.not_gt)

theorem State.scrambleColors_pixAt (j : Nat) : (s.scrambleColors n).pixAt j =
    if j < n then ⟨Config.freePixColor s.draws j, (s.pixAt j).index⟩ else s.pixAt j :=
  State.pixAt_of_loop (s := s) (t := s.scrambleColors n) rfl rfl j

theorem State.scrambleColors_pixAt_of_le {j : Nat} (hj : n ≤ j) : (s.scrambleColors n).pixAt j = s.pixAt j := by
  rw [State.scrambleColors_pixAt, if_neg hj.not_gt]

/-- `PXRES` keeps every index, inside the region too (R108). -/
theorem State.scrambleColors_pixAt_index (j : Nat) : ((s.scrambleColors n).pixAt j).index = (s.pixAt j).index := by
  rw [State.scrambleColors_pixAt]
  split <;> rfl

theorem State.scrambleBytes_byteAt_of_outside {a : Nat} (ha : a < s.bpos.toNat ∨ s.bpos.toNat + n ≤ a) :
    (s.scrambleBytes n).byteAt a = s.byteAt a := by
  have hread : (s.scrambleBytes n).byteMem.read a = s.byteMem.read a :=
    (read_forUpTo_write s.byteMem s.bpos.toNat n a fun k => Config.freeByte s.draws (s.bpos.toNat + k)).trans
      (if_neg (by omega))
  rw [State.byteAt, hread]
  rfl

end

/-- Settles O25: the code 6 tells the faults that scramble a region from those that write `STATUS` and `CAUSE` alone. -/
theorem faultingCommandLeavesTheRest : Obligations.FaultingCommandLeavesTheRest := by
  intro i s t hs h ht
  rcases (effect_of_exec h).fault_cases hs ht with ⟨c, -, hne, rfl⟩ | ⟨rfl, rfl⟩ | ⟨rfl, rfl⟩ | ⟨rfl, rfl⟩
  · refine ⟨rfl, fun _ => rfl, fun h6 => absurd ?_ hne⟩
    rwa [State.raise_cause_of_not_fault hs, causeCode_eq_six_iff] at h6
  · exact ⟨rfl, fun h6 => (h6 (State.raise_indexRange_cause hs)).elim,
      fun _ => .inl ⟨rfl, rfl, fun _ hj => s.scramblePix_pixAt_of_le hj⟩⟩
  · exact ⟨rfl, fun h6 => (h6 (State.raise_indexRange_cause hs)).elim,
      fun _ => .inr (.inl ⟨rfl, rfl, fun _ hj => s.scrambleColors_pixAt_of_le hj, s.scrambleColors_pixAt_index⟩)⟩
  · exact ⟨rfl, fun h6 => (h6 (State.raise_indexRange_cause hs)).elim,
      fun _ => .inr (.inr ⟨rfl, rfl, fun _ ha => s.scrambleBytes_byteAt_of_outside ha⟩)⟩

/-! The fault state at the host's side (R33, R164, R165). -/

theorem issue_of_fault {s : State} {w : CmdWord} (hf : s.fault = true) (hw : w ≠ rstWord) : s.issue w = .next s := by
  rw [State.issue, if_pos hf, if_neg hw]

theorem tooWide_issued (w : CmdWord) : (HostAction.write 0 (w.setWidth 64)).tooWide = none := by
  rw [tooWide_write, BitVec.toNat_setWidth]
  exact (Nat.mod_le _ _).trans_lt w.isLt

theorem isPlainHostWrite.ignored {a : HostAction} (h : isPlainHostWrite a) :
    a.tooWide = none ∧ a.ignoredInFault = true := by
  rcases h with ⟨n, v, rfl, hn, hv⟩ | ⟨k, v, rfl⟩ | ⟨k, p, rfl⟩ | ⟨k, c, rfl⟩
  · exact ⟨tooWide_write.2 hv, decide_eq_true hn⟩
  all_goals exact ⟨rfl, rfl⟩

/-- The step of an idle block in the fault state whose next action is a write it ignores (R33). -/
theorem step_ignored {s : State} {a : HostAction} {rest : List HostAction} (hin : s.inbox = a :: rest)
    (hbusy : s.busy = false) (hf : s.fault = true) (hw : a.tooWide = none) (ha : a.ignoredInFault = true) :
    step s = .next { s with inbox := rest } := by
  have hbusy' : ({ s with inbox := rest } : State).busy = false := hbusy
  have hf' : ({ s with inbox := rest } : State).fault = true := hf
  rw [step_of_inbox hin, State.perform, hbusy', hf', hw, ha]
  rfl

/-- Settles O8: the word is issued and is not `RST`'s; every other write is ignored. -/
theorem faultStateIgnoresCommandsAndWrites : Obligations.FaultStateIgnoresCommandsAndWrites := by
  rintro s a rest hbusy hf hin (⟨w, hw, rfl⟩ | hplain)
  · rw [step_eq_act hin hbusy (Bool.and_false _) (tooWide_issued w) rfl, act_write_cmd, setWidth_issued]
    exact issue_of_fault hf hw
  · obtain ⟨hwide, hignored⟩ := hplain.ignored
    exact step_ignored hin hbusy hf hwide hignored

theorem State.fault_writeReg (s : State) (n : Nat) (v : BitVec 64) : (s.writeReg n v).fault = s.fault := by
  rw [State.fault, State.writeReg_status, State.fault]

/-- The one word that clears `FAULT` (R165). -/
theorem eq_rstWord_of_issue_clears_fault {s t : State} {w : CmdWord} (hs : s.fault = true) (h : s.issue w = .next t)
    (ht : t.fault = false) : w = rstWord := by
  by_contra hw
  rw [issue_of_fault hs hw] at h
  obtain rfl := Host.Outcome.next.inj h
  exact Bool.false_ne_true (ht.symm.trans hs)

/-- The two actions that clear `FAULT` (R165). -/
theorem act_clears_fault {s t : State} {a : HostAction} (hs : s.fault = true) (h : s.act a = .next t)
    (ht : t.fault = false) : a = .reset ∨ ∃ v, a = .write 0 v ∧ v.setWidth 32 = rstWord := by
  cases a with
  | reset => exact .inl rfl
  | write n v =>
    by_cases hn : n = 0
    · subst hn
      exact .inr ⟨v, rfl, eq_rstWord_of_issue_clears_fault hs h ht⟩
    · rw [act_write_reg _ hn] at h
      obtain rfl := Host.Outcome.next.inj h
      exact absurd (ht.symm.trans ((s.fault_writeReg n v).trans hs)) Bool.false_ne_true
  | _ =>
    obtain rfl := Host.Outcome.next.inj h
    exact absurd (ht.symm.trans hs) Bool.false_ne_true

/-- Settles O12: neither waiting nor an ignored action clears `FAULT`, and of the others two do. -/
theorem onlyResetLeavesTheFaultState : Obligations.OnlyResetLeavesTheFaultState := by
  intro s t hs h ht
  rcases step_cases h with ⟨-, rfl⟩ | ⟨a, rest, hin, hp⟩
  · exact absurd (ht.symm.trans hs) Bool.false_ne_true
  rcases perform_cases hp with ⟨-, -, rfl⟩ | ⟨-, hw, -, hact⟩
  · exact absurd (ht.symm.trans hs) Bool.false_ne_true
  rcases act_clears_fault (s := { s with inbox := rest }) hs hact ht with rfl | ⟨v, rfl, hrst⟩
  · exact ⟨rest, .inl hin⟩
  · exact ⟨rest, .inr (eq_of_setWidth_eq_rstWord (tooWide_write.1 hw) hrst ▸ hin)⟩

end Sys2Proof.Machine
end

section
/-! PROOFS. The reset input, waiting, and what a command issued right after reset meets (70_reset_and_hazards.md). -/

namespace Sys2Proof.Machine

/-! Waiting and the reset input (R177). -/

theorem step_of_inbox_eq_nil {s : State} (hin : s.inbox = []) : step s = .next s := by
  rw [step, State.takeAction, hin]

/-- Settles O14. -/
theorem blockWaitsForTheHost : Obligations.BlockWaitsForTheHost := fun _ => step_of_inbox_eq_nil

/-- The reset input is let through while `BUSY` is 1, and no fault state ignores it. -/
theorem perform_reset (s : State) : s.perform .reset = .next s.hardReset := by
  have hbusy : (s.busy && !HostAction.reset.allowedWhileBusy) = false := Bool.and_false _
  have hfault : (s.fault && HostAction.reset.ignoredInFault) = false := Bool.and_false _
  rw [State.perform, hbusy, hfault]
  rfl

theorem State.hardReset_registersReset (s : State) : s.hardReset.RegistersReset := { resetValues.1 with }

/-- Settles O15: the block lets the reset input through in every state, to `State.hardReset`. -/
theorem hardwareResetEffect : Obligations.HardwareResetEffect := fun s rest hin =>
  ⟨({ s with inbox := rest } : State).hardReset, (step_of_inbox hin).trans (perform_reset _),
    State.hardReset_registersReset _, rfl, rfl, rfl, rfl, rfl, rfl, rfl⟩

/-! Every command ends (R187). -/

/-- Settles O23: each command has a footprint. -/
theorem everyCommandEnds : Obligations.EveryCommandEnds := fun i s =>
  (exec_effect i s).imp fun _ => And.left

/-! A codec command with no set-up (R178). -/

/-- The commands that read a colour type from `CFG` and refuse `None` (R93, R100, R104, R108, R115, R119). -/
def codecCommands : List Instr := [.pxdec, .pxenct, .pxenci, .pxres, .cldec, .clenc]

/-- With `CFG` = 0 both colour types are `None`. -/
theorem exec_codec_of_cfg_eq_zero {s : State} (hcfg : s.cfg = 0) {i : Instr} (hi : i ∈ codecCommands) :
    exec i s = .next (s.raise .badColorType) := by
  have hict : s.ict.isBad = true := by rw [State.ict, hcfg]; rfl
  have hcct : s.cct.isTrue = false := by rw [State.cct, hcfg]; rfl
  fin_cases hi
  · exact congrArg _ (pxdec_of_isBad hict)
  · exact congrArg _ (pxenct_of_isBad hict)
  · exact congrArg _ (pxenci_of_isBad hict)
  · exact congrArg _ (pxres_of_isBad hict)
  · exact congrArg _ (cldec_of_not_isTrue hcct)
  · exact congrArg _ (clenc_of_not_isTrue hcct)

theorem wellFormed_of_mem_codecCommands : ∀ i ∈ codecCommands, i.wellFormed = true := by decide

theorem State.withFetchWord_toNat (s : State) (w : CmdWord) :
    s.withFetchWord 32 w.toNat = { s with inbox := issueAction w :: s.inbox } := by
  rw [State.withFetchWord, Nat.mod_eq_of_lt w.isLt, BitVec.ofNat_toNat, BitVec.setWidth_eq]

/-- The word of a codec command decodes to it, so the step runs it on the reset values. -/
theorem step_codec_of_reset {i : Instr} (hi : i ∈ codecCommands) :
    step (State.reset.withFetchWord 32 (encode i).toNat) = .next { State.reset with status := 0x02, cause := 2 } := by
  have hbusy : State.reset.busy = false := by decide
  have hfault : State.reset.fault = false := by decide
  have hdecode : decode (encode i) = .ok i := decodeOfEncode i (wellFormed_of_mem_codecCommands i hi)
  have hexec : exec i State.reset.begin = .next (State.reset.begin.raise .badColorType) :=
    exec_codec_of_cfg_eq_zero rfl hi
  calc step (State.reset.withFetchWord 32 (encode i).toNat)
      = State.reset.issue (encode i) := by
        rw [State.withFetchWord_toNat]
        exact step_eq_issue rfl hbusy hfault
    _ = completed (.next (State.reset.begin.raise .badColorType)) := by rw [issue_of_decode hfault hdecode, hexec]
    _ = .next { State.reset with status := 0x02, cause := 2 } := rfl

theorem codecCommands_words :
    codecCommands.map (fun i => (encode i).toNat) = [0x30, 0x31, 0x32, 0x33, 0x38, 0x39] := rfl

/-- Settles O28: each of the words is a codec command's. -/
theorem codecCommandsFaultRightAfterReset : Obligations.CodecCommandsFaultRightAfterReset := by
  intro w hw
  rw [← codecCommands_words, List.mem_map] at hw
  obtain ⟨i, hi, rfl⟩ := hw
  exact step_codec_of_reset hi

end Sys2Proof.Machine
end
